-- ==== Sys2Proof/Word.lean ====
section
/-! DEFINITION. The machine's data types: bytes, words, blocks and the fixed-size word files
(00_scope.md R5, R8, R9). Every value is unsigned; word addition is addition modulo 2^32. -/

namespace Sys2Proof

/-- A byte, u8 (R9). -/
abbrev Byte := BitVec 8

/-- A word, u32; bit 0 is the least significant (R8, R9). -/
abbrev Word := BitVec 32

/-- A block: 64 bytes = 512 bits, byte 0 first (R5, R14). -/
abbrev Block := Vector Byte 64

/-- The hash state H[0..7]: eight words (R5, R23). -/
abbrev HashState := Vector Word 8

/-- The message schedule W[0..63] of one block (R5, R25). -/
abbrev Schedule := Vector Word 64

/-- The working variables a, b, c, d, e, f, g, h (R24). -/
structure Working where
  a : Word
  b : Word
  c : Word
  d : Word
  e : Word
  f : Word
  g : Word
  h : Word
deriving DecidableEq, Repr, Inhabited

end Sys2Proof
end

