-- ==== Sys2Proof/Config.lean ====
section
/-! DEFINITION. What the spec leaves open: the free values of the model. None of them has a body, so
nothing in Lean can evaluate one or prove anything of its value. Each is applied to `State.freeCount`, a plain
counter in the state that every use advances, so two uses are never the same value by construction. -/

namespace Sys2Proof

/-- LATENCY (R6, R203, R285, D14; assumption log 2): how many machine steps pass between the acceptance of
a command and its completion step. Finite because it is a Nat; unspecified; may differ per command; may be 0. -/
opaque Config.latency : Nat → Nat

/-- The working variables a..h after a compression, where R24 and R173 leave them unspecified (log 3). -/
opaque Config.freeWorking : Nat → Working

/-- The schedule W after a compression, where R25 and R173 leave it unspecified (log 3). -/
opaque Config.freeSchedule : Nat → Schedule

/-- The round counter t after a compression, where R45 and R173 leave it unspecified (log 3). -/
opaque Config.freeRound : Nat → BitVec 6

/-- The 64 bytes of BUF where R26, R204 and R209 leave them all unspecified (log 4). -/
opaque Config.freeBuf : Nat → Block

/-- BUFCNT after FINALIZE, where R209 leaves it unspecified (log 4). -/
opaque Config.freeBufcnt : Nat → BitVec 6

end Sys2Proof
end

