-- ==== Sys2Proof/Syntax.lean ====
section
/-! DEFINITION. The host's transactions: what stands at the engine's port (`Access`), and the decoded
instruction (`Instr`), one constructor per row of spec/opcode_table.json (30_encoding.md R70 to R74). -/

namespace Sys2Proof

/-- One host transaction as it stands at the port, before decoding: `MemRead(addr, width)` or
`MemWrite(addr, width, data)` (R12, R200). `addr` is a byte address of the host's address space and `width` a number
of bytes; the engine defines a meaning for aligned 4-byte accesses in its window only (R56). -/
inductive Access where
  | rd (addr width : Nat)
  | wr (addr width : Nat) (data : Word)
deriving DecidableEq, Repr

/-- The decoded instruction. The first three rows are the command words (format CMD, R74); the others are the
access rows (format ACCESS, R72). -/
inductive Instr where
  /-- INIT, command word 0x00000001 (R204). -/
  | init
  /-- UPDATE of n = nbm1 + 1 bytes, command word 0x00000002 OR (nbm1 << 4) (R75, R205). -/
  | update (nbm1 : BitVec 2)
  /-- FINALIZE, command word 0x00000003 (R209). -/
  | finalize
  /-- RD_CMD, key 0x00 (R216). -/
  | rdCmd
  /-- RD_DATA, key 0x04 (R213). -/
  | rdData
  /-- RD_STATUS, key 0x08 (R214). -/
  | rdStatus
  /-- RD_RSVD at offset 0x0C, key 0x0C (R218). -/
  | rdRsvd0C
  /-- RD_RSVD at offset 0x10 + 4 * word, keys 0x10..0x1C (R218). -/
  | rdRsvd1X (word : BitVec 2)
  /-- RD_DIGEST i, key 0x20 + 4i (R215). -/
  | rdDigest (i : BitVec 3)
  /-- WR_CMD, key 0x40, with the raw command word (R202). A legal word decodes to `init`, `update` or `finalize`
  (R70), so a well-formed `wrCmd` carries an illegal one (R77, R83); its meaning is R202's for every word. -/
  | wrCmd (v : Word)
  /-- WR_DATA, key 0x44 (R212). -/
  | wrData (v : Word)
  /-- WR_STATUS, key 0x48; the operand is ignored (R217). -/
  | wrStatus (v : Word)
  /-- WR_RSVD at offset 0x0C, key 0x4C (R218). -/
  | wrRsvd0C (v : Word)
  /-- WR_RSVD at offset 0x10 + 4 * word, keys 0x50..0x5C (R218). -/
  | wrRsvd1X (word : BitVec 2) (v : Word)
  /-- WR_DIGEST i, key 0x60 + 4i; the operand is ignored (R217). -/
  | wrDigest (i : BitVec 3) (v : Word)
deriving DecidableEq, Repr

end Sys2Proof
end

