-- ==== Sys2Proof/Machine/State.lean ====
section
/-! DEFINITION. The state of one engine with its host and its platform (10_state.md R21, R44), the reasons a step can
stop, and the state after reset. -/

namespace Sys2Proof.Machine

/-- The accepted command pending completion, with its latched operands (R22, R47): for UPDATE the n latched bytes, in the
order they are absorbed (R76). -/
inductive Pending where
  | init
  | update (bytes : List Byte)
  | finalize
deriving DecidableEq, Repr

/-- PHASE together with the pending command (R22): a command is pending exactly when PHASE = BUSY. -/
inductive Phase where
  | idle
  | busy (cmd : Pending)
deriving DecidableEq, Repr

/-- The three errors of R240, each a sticky STATUS bit. -/
inductive EngineError where
  | stateError
  | lengthOverflow
  | illegalCommand
deriving DecidableEq, Repr

/-- The whole machine: the engine's state (R21), then the model's own fields for the host, the platform and the free
values (INVENTORY.md, State). STATUS.BUSY is `phase` (R38), DIGESTi is a view of `h` (R42), CMD has no storage (R33). -/
structure State where
  /-- H[0..7] (R23). -/
  h : HashState
  /-- a..h (R24). -/
  work : Working
  /-- W[0..63] (R25). -/
  w : Schedule
  /-- BUF[0..63] (R26). -/
  buf : Block
  /-- BUFCNT (R26). -/
  bufcnt : BitVec 6
  /-- LEN (R27). -/
  len : BitVec 61
  /-- SEQ: PHASE and the pending command (R22, R47). -/
  phase : Phase
  /-- SEQ: the round counter t (R22). -/
  round : BitVec 6
  /-- DATA (R34). -/
  data : Word
  /-- STATUS.CLOSED (R36). -/
  closed : Bool
  /-- STATUS.DVALID (R37). -/
  dvalid : Bool
  /-- STATUS.ERR_STATE (R39). -/
  errState : Bool
  /-- STATUS.ERR_LENGTH (R40). -/
  errLength : Bool
  /-- STATUS.ERR_CMD (R41). -/
  errCmd : Bool
  /-- ENGINE_BASE / 64 (R52, log 5); no step changes it. -/
  baseBlock : Nat
  /-- Steps left before the pending command completes (R203, log 2); read only while busy. -/
  latencyLeft : Nat
  /-- The counter the free values of Config are applied to (log 3). -/
  freeCount : Nat
  /-- The host's transactions not yet done, in port order, next first (R59, R200, log 6). -/
  queue : List Access
  /-- The words the host's reads returned, oldest first: the observation (R223, log 6). -/
  results : List Word
  /-- The platform's reset signal at the steps to come, next first; no reset past its end (R270, log 7). -/
  resetLine : List Bool
deriving DecidableEq, Repr

/-- Why the machine stops with a fault. -/
inductive Fault where
  /-- The host's transaction lies wholly outside ENGINE_BASE..ENGINE_BASE+0x3F, so it "is not the engine's" (R51).
  Raised by `step` when it decodes the transaction. Safe: the model stops where the host would talk to another device. -/
  | outsideWindow
deriving DecidableEq, Repr

/-- Why the machine refuses. -/
inductive Refusal where
  /-- An instruction of the opcode table without a meaning. No arm of `exec` answers it: every row has its meaning. Safe. -/
  | notModelled (mnemonic : String)
  /-- offset[1:0] ≠ 0: "The model gives them no meaning and refuses them" (R56, R78, R219). Raised by `step` when it decodes
  the transaction. Safe. -/
  | misaligned
  /-- The width is not 4 bytes (R56, R78, R219). Raised by `step` when it decodes the transaction. Safe. -/
  | badWidth
  /-- The access crosses an edge of the window (R219). Raised by `step` when it decodes the transaction. Safe. -/
  | straddling
deriving DecidableEq, Repr

/-- The machine right after reset (R44, R270), with no transaction placed. The elements R44 leaves unspecified (a..h, W,
BUF, t) are 0 (DESIGN CHOICE, log 1); the model's own fields are 0 or empty (DESIGN CHOICE, log 2, 3, 5, 6, 7). -/
def State.reset : State where
  h := h0Rom
  work := ⟨0, 0, 0, 0, 0, 0, 0, 0⟩
  w := Vector.replicate 64 0
  buf := Vector.replicate 64 0
  bufcnt := 0
  len := 0
  phase := .idle
  round := 0
  data := 0
  closed := false
  dvalid := false
  errState := false
  errLength := false
  errCmd := false
  baseBlock := 0
  latencyLeft := 0
  freeCount := 0
  queue := []
  results := []
  resetLine := []

end Sys2Proof.Machine
end

