-- ==== Sys2Proof/Machine/Operands.lean ====
section
/-! DEFINITION. Word and byte primitives (00_scope.md R10, R11), the operands of the transactions (30_encoding.md R75,
R76) and the register values a read returns (10_state.md R33, R34, R42, R43). -/

namespace Sys2Proof.Machine

/-- 32-bit right rotation by n, for n in 0..31 (R10). -/
def rotr (x : Word) (n : Nat) : Word := (x >>> n) ||| (x <<< (32 - n))

/-- Byte i of a byte string (R9); no rule reads past the end, where this total function gives 0. -/
def byteAt (s : List Byte) (i : Nat) : Byte := s.getD i 0

/-- be32(s, i): the big-endian word at byte offset i (R11). -/
def be32 (s : List Byte) (i : Nat) : Word :=
  ((byteAt s i).setWidth 32 <<< 24) ||| ((byteAt s (i + 1)).setWidth 32 <<< 16)
    ||| ((byteAt s (i + 2)).setWidth 32 <<< 8) ||| (byteAt s (i + 3)).setWidth 32

/-- be32bytes(w) = [w[31:24], w[23:16], w[15:8], w[7:0]] (R11). -/
def be32bytes (w : Word) : List Byte :=
  [w.extractLsb' 24 8, w.extractLsb' 16 8, w.extractLsb' 8 8, w.extractLsb' 0 8]

/-- be64bytes(v): the 8 bytes of a u64, most significant first (R11). -/
def be64bytes (v : BitVec 64) : List Byte :=
  [v.extractLsb' 56 8, v.extractLsb' 48 8, v.extractLsb' 40 8, v.extractLsb' 32 8,
   v.extractLsb' 24 8, v.extractLsb' 16 8, v.extractLsb' 8 8, v.extractLsb' 0 8]

/-- n = NBM1 + 1, in 1..4 (R75). -/
def updateCount (nbm1 : BitVec 2) : Nat := nbm1.toNat + 1

/-- The n bytes an UPDATE latches: byte_k = DATA[31 − 8k : 24 − 8k], k = 0..n−1 (R76). -/
def latchBytes (nbm1 : BitVec 2) (data : Word) : List Byte :=
  (be32bytes data).take (updateCount nbm1)

/-- ENGINE_BASE, aligned to 64 bytes (R52). -/
def State.engineBase (s : State) : Nat := 64 * s.baseBlock

/-- DIGESTi as a read sees it (R42): H[i] when CLOSED = 1 and DVALID = 1, else 0. -/
def State.digestWord (s : State) (i : BitVec 3) : Word :=
  if s.closed && s.dvalid then s.h[i.toNat]'(by have := i.isLt; omega) else 0

/-- What a read of CMD returns (R33, R216). -/
def cmdReadValue : Word := 0

/-- What a read of a reserved offset returns (R43, R218). -/
def reservedReadValue : Word := 0

end Sys2Proof.Machine
end

