-- ==== Sys2Proof/Machine/Flags.lean ====
section
/-! DEFINITION. The STATUS flags (10_state.md R35 to R41, R46): BUSY, the packed register, and every computation that
writes a flag. -/

namespace Sys2Proof.Machine

/-- STATUS.BUSY: a command is pending (R38). -/
def State.busy (s : State) : Bool :=
  match s.phase with
  | .idle => false
  | .busy _ => true

/-- One STATUS field at bit position `pos` (R35). -/
def flagBit (b : Bool) (pos : Nat) : Word := (if b then 1#32 else 0#32) <<< pos

/-- The STATUS register as a read sees it (R214); bits 31:6 read 0 (R43). -/
def State.statusWord (s : State) : Word :=
  flagBit s.closed 0 ||| flagBit s.dvalid 1 ||| flagBit s.busy 2
    ||| flagBit s.errState 3 ||| flagBit s.errLength 4 ||| flagBit s.errCmd 5

/-- The largest LEN, 2^61 − 1 bytes (R5, R27). -/
abbrev maxLen : Nat := 2 ^ 61 - 1

/-- LEN + n > 2^61 − 1: the LengthOverflow condition (R208). -/
def State.lengthExceeded (s : State) (n : Nat) : Bool := decide (maxLen < s.len.toNat + n)

/-- INIT's flag effects: CLOSED, DVALID and every ERR bit ← 0 (R204). -/
def State.openFlags (s : State) : State :=
  { s with closed := false, dvalid := false, errState := false, errLength := false, errCmd := false }

/-- FINALIZE's flag effects: CLOSED ← 1, DVALID ← 1 (R209). -/
def State.closeFlags (s : State) : State := { s with closed := true, dvalid := true }

end Sys2Proof.Machine
end

