-- ==== Sys2Proof/Machine/Ops.lean ====
section
/-! DEFINITION. The operations the transactions and the engine's step share: ending a transaction, holding it, accepting a
command, raising an error, and putting free values where the spec leaves a value unspecified. -/

namespace Sys2Proof.Machine

/-! ### The port -/

/-- The host's transaction is done: the next one stands at the port (R59, R200). -/
def State.retire (s : State) : State := { s with queue := s.queue.tail }

/-- A read completes and returns `v` to the host (R200, R223). No read has another effect (R57). -/
def State.reply (v : Word) (s : State) : State := ({ s with results := s.results ++ [v] }).retire

/-- A transaction that is never held completes with the engine state `t` (R201). -/
def finish (t : State) : Host.Outcome State Fault Refusal := .next t

/-- A WR_CMD or RD_DIGEST: held while BUSY = 1, when it has no step and still stands at the port (R201); otherwise it
completes with the engine state `t`. -/
def finishUnlessBusy (s t : State) : Host.Outcome State Fault Refusal :=
  if s.busy then .next s else .next t

/-! ### Commands -/

/-- Acceptance (R203, step 1): BUSY ← 1 and the pending command recorded; nothing else of the engine changes. The latency
of this command is the free value LATENCY (log 2). -/
def State.accept (p : Pending) (s : State) : State :=
  { s with phase := .busy p, latencyLeft := Config.latency s.freeCount, freeCount := s.freeCount + 1 }

/-- "raise E" (R244, R246): the error's sticky STATUS bit is set and the command rejected, with no other effect, but for
LengthOverflow, which also aborts the computation: CLOSED ← 1, DVALID ← 0 (R208). There is no transfer of control, nothing
is saved and there is no handler (R249); the way back is INIT (R247). -/
def State.raise (e : EngineError) (s : State) : State :=
  match e with
  | .stateError => { s with errState := true }
  | .lengthOverflow => { s with errLength := true, closed := true, dvalid := false }
  | .illegalCommand => { s with errCmd := true }

/-! ### Unspecified values -/

/-- a..h, W and t are unspecified after a compression (R24, R25, R45, R173): free values (log 3). -/
def State.forgetWork (s : State) : State :=
  { s with
    work := Config.freeWorking s.freeCount
    w := Config.freeSchedule s.freeCount
    round := Config.freeRound s.freeCount
    freeCount := s.freeCount + 1 }

/-- Every byte of BUF is unspecified (R26 with BUFCNT = 0, R204, R209): free values (log 4). -/
def State.forgetBuf (s : State) : State :=
  { s with buf := Config.freeBuf s.freeCount, freeCount := s.freeCount + 1 }

/-- BUFCNT is unspecified (R209): a free value (log 4). -/
def State.forgetBufcnt (s : State) : State :=
  { s with bufcnt := Config.freeBufcnt s.freeCount, freeCount := s.freeCount + 1 }

end Sys2Proof.Machine
end

