-- ==== Sys2Proof/Machine/Accesses.lean ====
section
/-! DEFINITION. The register accesses other than WR_CMD (45_host_commands.md R212 to R218). -/

namespace Sys2Proof.Machine

/-- RD_CMD returns 0; never held (R216). -/
def execRdCmd (s : State) : Host.Outcome State Fault Refusal := finish (s.reply cmdReadValue)

/-- RD_DATA returns DATA; never held (R213). -/
def execRdData (s : State) : Host.Outcome State Fault Refusal := finish (s.reply s.data)

/-- RD_STATUS returns the packed flags; never held (R214). -/
def execRdStatus (s : State) : Host.Outcome State Fault Refusal := finish (s.reply s.statusWord)

/-- RD_RSVD at 0x0C returns 0; never held (R218). -/
def execRdRsvd0C (s : State) : Host.Outcome State Fault Refusal := finish (s.reply reservedReadValue)

/-- RD_RSVD at 0x10..0x1C returns 0 whichever word it is; never held (R218). -/
def execRdRsvd1X (_word : BitVec 2) (s : State) : Host.Outcome State Fault Refusal :=
  finish (s.reply reservedReadValue)

/-- RD_DIGEST i returns DIGESTi as R42 gives it; held while BUSY = 1 (R215). -/
def execRdDigest (i : BitVec 3) (s : State) : Host.Outcome State Fault Refusal :=
  finishUnlessBusy s (s.reply (s.digestWord i))

/-- WR_DATA: DATA <- v; never held, writes no flag (R212). -/
def execWrData (v : Word) (s : State) : Host.Outcome State Fault Refusal :=
  finish ({ s with data := v }).retire

/-- WR_STATUS: the operand is ignored and nothing changes; never held (R217). -/
def execWrStatus (_v : Word) (s : State) : Host.Outcome State Fault Refusal := finish s.retire

/-- WR_RSVD at 0x0C changes nothing; never held (R218). -/
def execWrRsvd0C (_v : Word) (s : State) : Host.Outcome State Fault Refusal := finish s.retire

/-- WR_RSVD at 0x10..0x1C changes nothing; never held (R218). -/
def execWrRsvd1X (_word : BitVec 2) (_v : Word) (s : State) : Host.Outcome State Fault Refusal :=
  finish s.retire

/-- WR_DIGEST i: the operand is ignored and nothing changes; never held (R217). -/
def execWrDigest (_i : BitVec 3) (_v : Word) (s : State) : Host.Outcome State Fault Refusal :=
  finish s.retire

end Sys2Proof.Machine
end

