-- ==== Sys2Proof/WellFormed.lean ====
section
/-! DEFINITION. Well-formed instructions: every transaction has exactly one well-formed spelling. -/

namespace Sys2Proof

/-- The six legal command words, as R74 lists them: INIT, UPDATE with n = 1, 2, 3, 4, and FINALIZE. -/
def legalCommandWords : List Word :=
  [0x00000001, 0x00000002, 0x00000012, 0x00000022, 0x00000032, 0x00000003]

/-- The one check: a raw command write carries a word that spells no command (R70, R77). The register numbers of the
other constructors are bit fields of exactly the width the encoding gives them (R72), so they need no check. -/
def Instr.wf : Instr → Bool
  | .init => true
  | .update _ => true
  | .finalize => true
  | .rdCmd => true
  | .rdData => true
  | .rdStatus => true
  | .rdRsvd0C => true
  | .rdRsvd1X _ => true
  | .rdDigest _ => true
  | .wrCmd v => !legalCommandWords.contains v
  | .wrData _ => true
  | .wrStatus _ => true
  | .wrRsvd0C _ => true
  | .wrRsvd1X _ _ => true
  | .wrDigest _ _ => true

end Sys2Proof
end

