-- ==== Sys2Proof/Decode.lean ====
section
/-! DEFINITION. The decoder (30_encoding.md R70 to R80; 20_memory.md R51, R52, R56), total on every access and
refusing by name, and after it the encoder, written from the same tables. -/

namespace Sys2Proof

/-- Why an access is no transaction of the engine. -/
inductive DecodeError where
  /-- The access lies wholly outside ENGINE_BASE..ENGINE_BASE+0x3F: "not the engine's" (R51). -/
  | outsideWindow
  /-- The access crosses an edge of the window (R219). -/
  | straddling
  /-- The width is not 4 bytes (R56, R219). -/
  | badWidth
  /-- offset[1:0] ≠ 0 (R56, R71, R219). -/
  | misaligned
deriving DecidableEq, Repr

/-- Read or write (R71, DIR). -/
inductive Dir where
  | read
  | write
deriving DecidableEq, Repr

def accessDir : Access → Dir
  | .rd _ _ => .read
  | .wr _ _ _ => .write

def accessAddr : Access → Nat
  | .rd a _ => a
  | .wr a _ _ => a

def accessWidth : Access → Nat
  | .rd _ w => w
  | .wr _ w _ => w

/-- The write data of an access; a read carries none, and no row that reads looks at it. -/
def accessData : Access → Word
  | .rd _ _ => 0
  | .wr _ _ v => v

/-! ### The command word (format CMD) -/

/-- OP, bits 3:0 (R73). -/
def cmdOp (v : Word) : BitVec 4 := v.extractLsb' 0 4

/-- NBM1, bits 5:4 (R73). -/
def cmdNbm1 (v : Word) : BitVec 2 := v.extractLsb' 4 2

/-- RSVD, bits 31:6 (R73). -/
def cmdRsvd (v : Word) : BitVec 26 := v.extractLsb' 6 26

/-- R77: a command word is illegal when its OP is none of 1, 2, 3, or RSVD ≠ 0, or it is an INIT or FINALIZE with
NBM1 ≠ 0. -/
def illegalCommand (v : Word) : Bool :=
  !(cmdOp v == 1 || cmdOp v == 2 || cmdOp v == 3)
    || cmdRsvd v != 0
    || ((cmdOp v == 1 || cmdOp v == 3) && cmdNbm1 v != 0)

/-- The instruction a write of `v` to CMD is (R70, R74): a legal word is its command, an illegal one stays the raw
write that raises IllegalCommand (R77). -/
def decodeCommand (v : Word) : Instr :=
  if illegalCommand v then .wrCmd v
  else if cmdOp v = 1 then .init
  else if cmdOp v = 2 then .update (cmdNbm1 v)
  else .finalize

/-! ### The access key (format ACCESS) -/

/-- The rows of R72's table, by name. -/
inductive AccessOp where
  | rdCmd | rdData | rdStatus | rdRsvd0C | rdRsvd1X | rdDigest
  | wrCmd | wrData | wrStatus | wrRsvd0C | wrRsvd1X | wrDigest
deriving DecidableEq, Repr

/-- One row of R72's table: a key matches when `key AND mask = pattern`. -/
structure KeyRow where
  pattern : BitVec 7
  mask : BitVec 7
  op : AccessOp
deriving DecidableEq, Repr

/-- The access decode table, row by row as R72 gives it. -/
def keyRows : List KeyRow :=
  [⟨0x00, 0x7F, .rdCmd⟩, ⟨0x04, 0x7F, .rdData⟩, ⟨0x08, 0x7F, .rdStatus⟩,
   ⟨0x0C, 0x7F, .rdRsvd0C⟩, ⟨0x10, 0x73, .rdRsvd1X⟩, ⟨0x20, 0x63, .rdDigest⟩] ++
  [⟨0x40, 0x7F, .wrCmd⟩, ⟨0x44, 0x7F, .wrData⟩, ⟨0x48, 0x7F, .wrStatus⟩,
   ⟨0x4C, 0x7F, .wrRsvd0C⟩, ⟨0x50, 0x73, .wrRsvd1X⟩, ⟨0x60, 0x63, .wrDigest⟩]

def keyMatches (key : BitVec 7) (r : KeyRow) : Bool := (key &&& r.mask) == r.pattern

/-- The row a key matches, if any. -/
def lookupKey (key : BitVec 7) : Option AccessOp := (keyRows.find? (keyMatches key)).map KeyRow.op

/-- The word field of a reserved row, bits 3:2 of the key (opcode table, WORD of the 1X rows). -/
def keyRsvdWord (key : BitVec 7) : BitVec 2 := key.extractLsb' 2 2

/-- The index i of a DIGEST row, bits 4:2 of the key (R72). -/
def keyDigestIndex (key : BitVec 7) : BitVec 3 := key.extractLsb' 2 3

/-- The instruction of a matched row, its fields pulled out of the key and the write data (R71, R72, R70). -/
def buildInstr (op : AccessOp) (key : BitVec 7) (data : Word) : Instr :=
  match op with
  | .rdCmd => .rdCmd
  | .rdData => .rdData
  | .rdStatus => .rdStatus
  | .rdRsvd0C => .rdRsvd0C
  | .rdRsvd1X => .rdRsvd1X (keyRsvdWord key)
  | .rdDigest => .rdDigest (keyDigestIndex key)
  | .wrCmd => decodeCommand data
  | .wrData => .wrData data
  | .wrStatus => .wrStatus data
  | .wrRsvd0C => .wrRsvd0C data
  | .wrRsvd1X => .wrRsvd1X (keyRsvdWord key) data
  | .wrDigest => .wrDigest (keyDigestIndex key) data

/-- Decode an access key and the write data (R70). No row matches a key with ALIGN ≠ 0, and exactly one matches every
other key (R72), so the only rejection here is the misaligned one (R78). -/
def decodeKey (key : BitVec 7) (data : Word) : Except DecodeError Instr :=
  match lookupKey key with
  | some op => .ok (buildInstr op key data)
  | none => .error .misaligned

/-! ### The whole access -/

/-- The window is 64 bytes (R6, R50). -/
abbrev windowBytes : Nat := 64

/-- The access touches no byte of the window (R51). -/
def outsideWindow (base : Nat) (a : Access) : Bool :=
  decide (base + windowBytes ≤ accessAddr a)
    || (decide (accessAddr a < base) && decide (accessAddr a + accessWidth a ≤ base))

/-- The access crosses an edge of the window (R219). -/
def straddlesWindow (base : Nat) (a : Access) : Bool :=
  !outsideWindow base a
    && (decide (accessAddr a < base) || decide (base + windowBytes < accessAddr a + accessWidth a))

/-- key = (dir << 6) | off[5:0] (R71). -/
def accessKey (dir : Dir) (off : Nat) : BitVec 7 :=
  BitVec.ofNat 7 ((match dir with | .read => 0 | .write => 64) + off % 64)

/-- Decode a host transaction at an engine whose window starts at `base` (R51, R52, R56, R70, R219). -/
def decode (base : Nat) (a : Access) : Except DecodeError Instr :=
  if outsideWindow base a then .error .outsideWindow
  else if straddlesWindow base a then .error .straddling
  else if accessWidth a ≠ 4 then .error .badWidth
  else decodeKey (accessKey (accessDir a) (accessAddr a - base)) (accessData a)

/-! ### The encoder -/

/-- The offset of a transaction's register from ENGINE_BASE (R32, R51, R72). -/
def encodeOffset : Instr → Nat
  | .init => 0x00
  | .update _ => 0x00
  | .finalize => 0x00
  | .rdCmd => 0x00
  | .rdData => 0x04
  | .rdStatus => 0x08
  | .rdRsvd0C => 0x0C
  | .rdRsvd1X word => 0x10 + 4 * word.toNat
  | .rdDigest i => 0x20 + 4 * i.toNat
  | .wrCmd _ => 0x00
  | .wrData _ => 0x04
  | .wrStatus _ => 0x08
  | .wrRsvd0C _ => 0x0C
  | .wrRsvd1X word _ => 0x10 + 4 * word.toNat
  | .wrDigest i _ => 0x20 + 4 * i.toNat

/-- The 32-bit write data of a transaction; a read has none (R71, R74, R81). -/
def encodeData : Instr → Option Word
  | .init => some 0x00000001
  | .update nbm1 => some (0x00000002#32 ||| (nbm1.setWidth 32 <<< 4))
  | .finalize => some 0x00000003
  | .rdCmd => none
  | .rdData => none
  | .rdStatus => none
  | .rdRsvd0C => none
  | .rdRsvd1X _ => none
  | .rdDigest _ => none
  | .wrCmd v => some v
  | .wrData v => some v
  | .wrStatus v => some v
  | .wrRsvd0C v => some v
  | .wrRsvd1X _ v => some v
  | .wrDigest _ v => some v

/-- Encode an instruction as the host transaction that carries it, at an engine whose window starts at `base`. -/
def encode (base : Nat) (i : Instr) : Access :=
  match encodeData i with
  | none => .rd (base + encodeOffset i) 4
  | some v => .wr (base + encodeOffset i) 4 v

/-! ### The opcode table's numbering -/

/-- The access that spec/opcode_table.json's bits stand for. A row of format CMD gives 32 bits, the word written to
CMD: `wr CMD, w`. A row of format ACCESS gives the 7-bit key, one whole byte, and its write data (which the table gives
no bits) is 0; a bit above the key moves the address out of the window. No other width is a format of the table: it
becomes an access of as many bytes, which the decoder refuses. -/
def tableAccess (base nbits w : Nat) : Access :=
  if nbits ≤ 8 then
    if w / 64 % 2 = 1 then .wr (base + w % 64 + 64 * (w / 128)) 4 0
    else .rd (base + w % 64 + 64 * (w / 128)) 4
  else .wr base (nbits / 8) (BitVec.ofNat 32 w)

/-- What the decoder reads from an instruction whose bits are `w`, numbered as spec/opcode_table.json numbers them. -/
def decodeTableWord (nbits w : Nat) : Option Instr :=
  match decode 0 (tableAccess 0 nbits w) with
  | .ok i => some i
  | .error _ => none

end Sys2Proof
end

