-- ==== Sys2Proof/Machine/Schedule.lean ====
section
/-! DEFINITION. The message schedule expander (42_schedule.md). Pure functions; all additions wrap modulo 2^32 (R144). -/

namespace Sys2Proof.Machine

/-- s0 (R140). -/
def s0 (x : Word) : Word := rotr x 7 ^^^ rotr x 18 ^^^ (x >>> 3)

/-- s1 (R141). -/
def s1 (x : Word) : Word := rotr x 17 ^^^ rotr x 19 ^^^ (x >>> 10)

/-- The next schedule word from the words before it, newest first, so that position j − 1 holds W[t−j]: the load of R142
for t < 16, the expansion of R143 for t ≥ 16. -/
def scheduleNext (B : Block) (t : Nat) (before : List Word) : Word :=
  if t < 16 then be32 B.toList (4 * t)
  else before.getD 15 0 + s0 (before.getD 14 0) + before.getD 6 0 + s1 (before.getD 1 0)

/-- The first n schedule words, newest first. -/
def scheduleUpTo (B : Block) : Nat → List Word
  | 0 => []
  | n + 1 => scheduleNext B n (scheduleUpTo B n) :: scheduleUpTo B n

/-- W[t] of the block B. -/
def scheduleWord (B : Block) (t : Nat) : Word := scheduleNext B t (scheduleUpTo B t)

/-- The whole expander: W[0..63] of one block, reading nothing but the block (R146). -/
def schedule (B : Block) : Schedule := Vector.ofFn fun t => scheduleWord B t.val

end Sys2Proof.Machine
end

