-- ==== Sys2Proof/Machine/Compression.lean ====
section
/-! DEFINITION. The 64-round permutation unit and the state accumulator (43_compression.md). -/

namespace Sys2Proof.Machine

/-- S1 (R160). -/
def S1 (e : Word) : Word := rotr e 6 ^^^ rotr e 11 ^^^ rotr e 25

/-- ch (R161). -/
def ch (e f g : Word) : Word := (e &&& f) ^^^ (~~~e &&& g)

/-- S0 (R162). -/
def S0 (a : Word) : Word := rotr a 2 ^^^ rotr a 13 ^^^ rotr a 22

/-- maj (R163). -/
def maj (a b c : Word) : Word := (a &&& b) ^^^ (a &&& c) ^^^ (b &&& c)

/-- temp1 = h + S1(e) + ch(e, f, g) + K[t] + W[t] (R164), with `k` = K[t] and `w` = W[t]. -/
def temp1 (k w : Word) (v : Working) : Word := v.h + S1 v.e + ch v.e v.f v.g + k + w

/-- temp2 = S0(a) + maj(a, b, c) (R165). -/
def temp2 (v : Working) : Word := S0 v.a + maj v.a v.b v.c

/-- One round: all eight new values from the old ones (R166). -/
def roundStep (k w : Word) (v : Working) : Working :=
  { a := temp1 k w v + temp2 v
    b := v.a
    c := v.b
    d := v.c
    e := v.d + temp1 k w v
    f := v.e
    g := v.f
    h := v.g }

/-- W[t] of a schedule; no rule reads past 63, where this total function gives 0. -/
def wAt (W : Schedule) (t : Nat) : Word := W.toList.getD t 0

/-- Rounds 0, 1, ..., n − 1 in increasing order (R167). -/
def rounds (W : Schedule) : Nat → Working → Working
  | 0, v => v
  | n + 1, v => roundStep (kAt n) (wAt W n) (rounds W n v)

/-- a = H[0], ..., h = H[7] (R24, R167). -/
def loadWorking (H : HashState) : Working :=
  { a := H[0], b := H[1], c := H[2], d := H[3], e := H[4], f := H[5], g := H[6], h := H[7] }

/-- The working variables in order: v[0] = a, ..., v[7] = h (R169). -/
def workingWords (v : Working) : HashState := #v[v.a, v.b, v.c, v.d, v.e, v.f, v.g, v.h]

/-- permute(H, W): the 64 rounds from the working variables loaded from H (R167). -/
def permute (H : HashState) (W : Schedule) : Working := rounds W 64 (loadWorking H)

/-- accumulate(H, v): H[i] + v[i] modulo 2^32, word by word (R169). -/
def accumulate (H : HashState) (v : Working) : HashState :=
  Vector.ofFn fun i => H[i] + (workingWords v)[i]

/-- compress(H, B): the compression engine for one block, total on every H and B (R173). -/
def compress (H : HashState) (B : Block) : HashState := accumulate H (permute H (schedule B))

/-- The engine compresses the block B (R173): the schedule into W, the 64 rounds in a..h, the accumulator into H; a..h, W
and t are unspecified afterwards. -/
def State.compressBlock (B : Block) (s : State) : State :=
  let scheduled := { s with w := schedule B }
  let permuted := { scheduled with work := permute scheduled.h scheduled.w, round := 63 }
  ({ permuted with h := accumulate permuted.h permuted.work }).forgetWork

end Sys2Proof.Machine
end

