-- ==== Sys2Proof/Machine/BlockBuffer.lean ====
section
/-! DEFINITION. The block buffer (41_block_buffer.md): absorbing message bytes, compressing each block as it fills. -/

namespace Sys2Proof.Machine

/-- BUF[BUFCNT] <- x (R121). -/
def State.storeByte (x : Byte) (s : State) : State :=
  { s with buf := s.buf.set s.bufcnt.toNat x (by have := s.bufcnt.isLt; omega) }

/-- absorb(x) (R121): the byte that fills the block has it compressed and leaves BUFCNT = 0, after which every byte of BUF
is unspecified (R26). -/
def State.absorb (s : State) (x : Byte) : State :=
  let t := s.storeByte x
  if s.bufcnt = 63 then ({ t.compressBlock t.buf with bufcnt := 0 }).forgetBuf
  else { t with bufcnt := t.bufcnt + 1 }

/-- The bytes of a chunk in order (R205). -/
def State.absorbAll (bytes : List Byte) (s : State) : State := bytes.foldl State.absorb s

end Sys2Proof.Machine
end

