-- ==== Sys2Proof/Machine/Padder.lean ====
section
/-! DEFINITION. The padder: bit-length encoder and block aligner (40_padder.md), and the split of a byte string into its
64-byte blocks (44_digest.md R193). -/

namespace Sys2Proof.Machine

/-- length_field(L) = be64bytes(8 × L) (R101). -/
def lengthField (L : Nat) : List Byte := be64bytes (BitVec.ofNat 64 (8 * L))

/-- align_zeros(L) = (55 − L) mod 64, mod in 0..63 for negative arguments too (R102). -/
def alignZeros (L : Nat) : Nat := ((55 - (L : Int)) % 64).toNat

/-- pad(M) (R100, R103). -/
def pad (M : List Byte) : List Byte :=
  M ++ [0x80] ++ List.replicate (alignZeros M.length) 0 ++ lengthField M.length

/-- Block k of a byte string: its bytes 64k to 64k + 63. -/
def blockAt (P : List Byte) (k : Nat) : Block := Vector.ofFn fun i => byteAt P (64 * k + i.val)

/-- The full 64-byte blocks of a byte string, in order; a partial block at the end is no block (R124, R193). -/
def blocks (P : List Byte) : List Block := (List.range (P.length / 64)).map (blockAt P)

/-- The tail T of pad_tail(BUF, BUFCNT, LEN) (R107). -/
def tailBytes (buf : Block) (bufcnt : Nat) (len : Nat) : List Byte :=
  buf.toList.take bufcnt ++ [0x80] ++ List.replicate (alignZeros bufcnt) 0 ++ lengthField len

/-- pad_tail(BUF, BUFCNT, LEN): the tail's one or two blocks, in order (R107). -/
def padTail (buf : Block) (bufcnt : Nat) (len : Nat) : List Block := blocks (tailBytes buf bufcnt len)

end Sys2Proof.Machine
end

