-- ==== Sys2Proof/Machine/Digest.lean ====
section
/-! DEFINITION. The digest serializer and the whole function (44_digest.md). -/

namespace Sys2Proof.Machine

/-- serialize(H): each word big-endian, in State order (R190). -/
def serialize (H : HashState) : List Byte := H.toList.flatMap be32bytes

/-- fold(compress, H, blocks): compress applied to each block, left to right (R193). -/
def foldCompress (H : HashState) (bs : List Block) : HashState := bs.foldl compress H

/-- SHA256(M) = serialize(fold(compress, H0, blocks(pad(M)))) (R193). -/
def sha256 (M : List Byte) : List Byte := serialize (foldCompress h0Rom (blocks (pad M)))

end Sys2Proof.Machine
end

