-- ==== Sys2Proof/Machine/Commands.lean ====
section
/-! DEFINITION. The commands INIT, UPDATE and FINALIZE and the WR_CMD transaction (45_host_commands.md R202 to R211): the
checks at the write, in R245's order, and the effects at completion. -/

namespace Sys2Proof.Machine

/-! ### At the write -/

/-- The INIT case of R202: accepted in every state (R204). -/
def State.issueInit (s : State) : State := s.accept .init

/-- The UPDATE case of R202: StateError (R206), LengthOverflow (R208), or accepted with its n bytes latched from DATA
(R205, R76). -/
def State.issueUpdate (nbm1 : BitVec 2) (s : State) : State :=
  if s.closed then s.raise .stateError
  else if s.lengthExceeded (updateCount nbm1) then s.raise .lengthOverflow
  else s.accept (.update (latchBytes nbm1 s.data))

/-- The FINALIZE case of R202: StateError (R210), or accepted (R209). -/
def State.issueFinalize (s : State) : State :=
  if s.closed then s.raise .stateError else s.accept .finalize

/-- WR_CMD's dispatch on the whole command word (R202): illegal words first (R211, R245). -/
def State.issueWord (v : Word) (s : State) : State :=
  if illegalCommand v then s.raise .illegalCommand
  else if cmdOp v = 1 then s.issueInit
  else if cmdOp v = 2 then s.issueUpdate (cmdNbm1 v)
  else s.issueFinalize

/-- INIT (R204): the write of 0x00000001 to CMD. -/
def execInit (s : State) : Host.Outcome State Fault Refusal :=
  finishUnlessBusy s s.issueInit.retire

/-- UPDATE (R205, R206, R208): the write of 0x00000002 OR (nbm1 << 4) to CMD. -/
def execUpdate (nbm1 : BitVec 2) (s : State) : Host.Outcome State Fault Refusal :=
  finishUnlessBusy s (s.issueUpdate nbm1).retire

/-- FINALIZE (R209, R210): the write of 0x00000003 to CMD. -/
def execFinalize (s : State) : Host.Outcome State Fault Refusal :=
  finishUnlessBusy s s.issueFinalize.retire

/-- WR_CMD (R202): the write of any word to CMD. -/
def execWrCmd (v : Word) (s : State) : Host.Outcome State Fault Refusal :=
  finishUnlessBusy s (s.issueWord v).retire

/-! ### At completion -/

/-- INIT completion (R204): H ← H0, BUFCNT, LEN ← 0, the flags cleared, BUF unspecified, DATA unchanged. -/
def State.completeInit (s : State) : State :=
  ({ s with h := h0Rom, bufcnt := 0, len := 0 }).openFlags.forgetBuf

/-- UPDATE completion (R205): the bytes absorbed in order, LEN ← LEN + n. -/
def State.completeUpdate (bytes : List Byte) (s : State) : State :=
  let t := s.absorbAll bytes
  { t with len := t.len + BitVec.ofNat 61 bytes.length }

/-- The blocks compressed one after the other, in order (R66, R209). -/
def State.compressAll (bs : List Block) (s : State) : State :=
  bs.foldl (fun t B => t.compressBlock B) s

/-- FINALIZE completion (R209): the tail blocks compressed in order, CLOSED, DVALID ← 1, BUF and BUFCNT unspecified, LEN
unchanged. -/
def State.completeFinalize (s : State) : State :=
  (s.compressAll (padTail s.buf s.bufcnt.toNat s.len.toNat)).closeFlags.forgetBuf.forgetBufcnt

/-- The engine's completion step (R203, step 2): every effect of the pending command at once, then BUSY ← 0 and no command
pending. With none pending there is nothing to complete. -/
def State.complete (s : State) : State :=
  match s.phase with
  | .idle => s
  | .busy .init => { s.completeInit with phase := .idle }
  | .busy (.update bytes) => { s.completeUpdate bytes with phase := .idle }
  | .busy .finalize => { s.completeFinalize with phase := .idle }

end Sys2Proof.Machine
end

