-- ==== Sys2Proof/Machine/Dispatch.lean ====
section
/-! DEFINITION. One arm per instruction of the opcode table. -/

namespace Sys2Proof.Machine

def exec (i : Instr) (s : State) : Host.Outcome State Fault Refusal :=
  match i with
  | .init => Sys2Proof.Machine.execInit s
  | .update nbm1 => Sys2Proof.Machine.execUpdate nbm1 s
  | .finalize => Sys2Proof.Machine.execFinalize s
  | .rdCmd => Sys2Proof.Machine.execRdCmd s
  | .rdData => Sys2Proof.Machine.execRdData s
  | .rdStatus => Sys2Proof.Machine.execRdStatus s
  | .rdRsvd0C => Sys2Proof.Machine.execRdRsvd0C s
  | .rdRsvd1X word => Sys2Proof.Machine.execRdRsvd1X word s
  | .rdDigest n => Sys2Proof.Machine.execRdDigest n s
  | .wrCmd v => Sys2Proof.Machine.execWrCmd v s
  | .wrData v => Sys2Proof.Machine.execWrData v s
  | .wrStatus v => Sys2Proof.Machine.execWrStatus v s
  | .wrRsvd0C v => Sys2Proof.Machine.execWrRsvd0C v s
  | .wrRsvd1X word v => Sys2Proof.Machine.execWrRsvd1X word v s
  | .wrDigest n v => Sys2Proof.Machine.execWrDigest n v s

end Sys2Proof.Machine
end

