-- ==== Sys2Proof/Machine/Port.lean ====
section
/-! DEFINITION. What stands around an instruction in one machine step: the platform's reset event, the moment of the
engine's completion, fetching and decoding the transaction at the port, and rejecting a bad one
(45_host_commands.md R200, R201, R219; 70_reset_and_hazards.md R270, R271). -/

namespace Sys2Proof.Machine

/-- The platform asserts reset at this step (R270). -/
def State.resetNow (s : State) : Bool := s.resetLine.headD false

/-- The pending command completes at this step: BUSY = 1 and its latency has passed (R203, log 2). -/
def State.completionDue (s : State) : Bool := s.busy && decide (s.latencyLeft = 0)

/-- One step of the world outside passes: one sample of the reset signal, and one step of the pending command's latency. -/
def State.tick (s : State) : State :=
  { s with resetLine := s.resetLine.tail, latencyLeft := s.latencyLeft - 1 }

/-- The reset event (R270, R271): every element of the engine at R44's value, whatever was pending is aborted. The elements
R44 leaves unspecified are free values (log 3, log 4). The host's transactions and observation and ENGINE_BASE are not the
engine's state and stay, so a held transaction is released and acts on the reset state (R271). -/
def State.takeReset (s : State) : State :=
  ({ State.reset with
    baseBlock := s.baseBlock
    freeCount := s.freeCount
    queue := s.queue
    results := s.results
    resetLine := s.resetLine }).forgetWork.forgetBuf

/-- The stop of an access that is no transaction of the engine (R51, R219). -/
def rejectAccess (e : DecodeError) : Host.Outcome State Fault Refusal :=
  match e with
  | .outsideWindow => .fault .outsideWindow
  | .straddling => .refused .straddling
  | .badWidth => .refused .badWidth
  | .misaligned => .refused .misaligned

/-- The transaction at the port, decoded against ENGINE_BASE (R70, R71); none when the host has nothing to issue. -/
def State.fetch (s : State) : Option (Except DecodeError Instr) :=
  s.queue.head?.map (decode s.engineBase)

/-- Place an access at the port so that the very next step runs it: nothing else changes, but that a reset or a
completion which would come at that very step comes one step later. -/
def State.place (a : Access) (s : State) : State :=
  { s with
    queue := a :: s.queue
    resetLine := if s.resetNow then false :: s.resetLine else s.resetLine
    latencyLeft := if s.completionDue then 1 else s.latencyLeft }

end Sys2Proof.Machine
end

