-- ==== Sys2Proof/Machine/Step.lean ====
section
/-! DEFINITION. One step of the machine (45_host_commands.md R200, R201, R203): the platform's reset event if there is
one; else the pending command's completion if it is due; else the host's next transaction; else nothing (R257). -/

namespace Sys2Proof.Machine

def step (s : State) : Host.Outcome State Fault Refusal :=
  if s.resetNow then .next s.tick.takeReset
  else if s.completionDue then .next s.tick.complete
  else
    match s.fetch with
    | none => .next s.tick
    | some (.error e) => rejectAccess e
    | some (.ok i) => exec i s.tick

/-- s with the transaction that the opcode table's bits `w` stand for placed at the port. -/
def State.withFetchWord (s : State) (nbits w : Nat) : State :=
  s.place (tableAccess s.engineBase nbits w)

end Sys2Proof.Machine
end

