-- ==== Sys2Proof/Machine/Pseudo.lean ====
section
/-! DEFINITION. The pseudo-instructions of the host assembler and their expansions (30_encoding.md R82). They have no
encoding of their own: each is a list of transactions, in the order the host issues them. -/

namespace Sys2Proof.Machine

/-- `push.N imm`: wr DATA, imm, then upd.N with N = nbm1 + 1 (R82). -/
def pushProgram (nbm1 : BitVec 2) (imm : Word) : List Instr := [.wrData imm, .update nbm1]

/-- A group of up to four bytes packed with its first byte in bits 31:24 and 0 in the unused low bytes (R82). -/
def packGroup (s : List Byte) : Word := be32 s 0

/-- `absorb "s"`: push.4 over the 4-byte groups in order, then one push.r for the remaining r bytes (R82). -/
def absorbProgram : List Byte → List Instr
  | [] => []
  | [a] => pushProgram 0 (packGroup [a])
  | [a, b] => pushProgram 1 (packGroup [a, b])
  | [a, b, c] => pushProgram 2 (packGroup [a, b, c])
  | a :: b :: c :: d :: rest => pushProgram 3 (packGroup [a, b, c, d]) ++ absorbProgram rest

/-- One read of `poll` has seen BUSY: bit 2 of the STATUS word is set (R82, R35). -/
def statusShowsBusy (status : Word) : Bool := status.getLsbD 2

/-- `poll` has ended with these reads (R82): rd STATUS was repeated until BUSY read 0, so there is at least one read, bit 2 is
set in every read but the last, and clear in the last. -/
def pollEnded : List Word → Bool
  | [] => false
  | [w] => !statusShowsBusy w
  | w :: next :: rest => statusShowsBusy w && pollEnded (next :: rest)

/-- `poll` as a list of transactions: the reads that see BUSY = 1, then the one that sees 0 and ends it (R82). Which
`busyReads` it is, the reads decide: the one for which `pollEnded` holds of the words they return (assumption log 9). -/
def pollProgram (busyReads : Nat) : List Instr := List.replicate (busyReads + 1) .rdStatus

/-- How many reads of a `poll` that starts here see BUSY = 1: one per step of latency the pending command has left (R203,
assumption log 2), none when no command is pending. DESIGN CHOICE: it assumes that no reset event comes during the poll. The
spec leaves a reset in the middle of a program open (R223), and `resetLine` is not read here (log 9). -/
def State.busyReads (s : State) : Nat := if s.busy then s.latencyLeft else 0

/-- The `poll` of a host that starts it in this state (R82), no reset event coming during the poll (DESIGN CHOICE, log 9); it
is never needed for correctness (R280). -/
def State.pollFrom (s : State) : List Instr := pollProgram s.busyReads

/-- `rddigest`: rd DIGEST0 ... rd DIGEST7 in order (R82). -/
def rddigestProgram : List Instr := (List.range 8).map fun i => .rdDigest (BitVec.ofNat 3 i)

/-- `hash "s"`: init, absorb "s" (nothing when s is empty), fin, rddigest (R82). -/
def hashProgram (s : List Byte) : List Instr :=
  [.init] ++ absorbProgram s ++ [.finalize] ++ rddigestProgram

/-- The result of rddigest: the words read, each written out big-endian (R82, R191). -/
def digestOfReads (words : List Word) : List Byte := words.flatMap be32bytes

end Sys2Proof.Machine
end

