-- ==== Sys2Proof/Safety.lean ====
section
/-! DEFINITION. The terms claims are stated in: the end of a run and its observation, the machine's invariants, what it
means that the engine has absorbed a message, and agreement of two states on everything a rule may read. -/

namespace Sys2Proof.Machine

/-- A run has ended: the host has nothing left to issue and BUSY = 0 (45_host_commands.md R223). -/
def State.Final (s : State) : Prop := s.queue = [] ∧ s.busy = false

/-- What a run shows: the words the host's reads returned, in order (R223). -/
def State.observation (s : State) : List Word := s.results

/-- No step ahead has a reset event. -/
def State.NoReset (s : State) : Prop := ∀ b ∈ s.resetLine, b = false

/-- Every transaction the host has still to issue decodes (no access that the model refuses or faults on, R219, R51). -/
def State.QueueDecodes (s : State) : Prop := ∀ a ∈ s.queue, ∃ i, decode s.engineBase a = .ok i

/-- The command pending is one that R202 can have accepted: UPDATE and FINALIZE only while Open (R206, R210), UPDATE with 1
to 4 bytes (R75) that LEN has room for (R208). -/
def State.PendingLegal (s : State) : Prop :=
  match s.phase with
  | .idle => True
  | .busy .init => True
  | .busy (.update bytes) =>
      s.closed = false ∧ 1 ≤ bytes.length ∧ bytes.length ≤ 4 ∧ s.len.toNat + bytes.length ≤ maxLen
  | .busy .finalize => s.closed = false

/-- The invariant of every state a run can reach: DVALID = 1 only if CLOSED = 1 (10_state.md R37); a pending command was
acceptable; and while Open, BUFCNT = LEN mod 64 (41_block_buffer.md R125). -/
structure State.Inv (s : State) : Prop where
  dvalid_closed : s.dvalid = true → s.closed = true
  pending_legal : s.PendingLegal
  bufcnt_eq : s.closed = false → s.bufcnt.toNat = s.len.toNat % 64

/-- The engine has absorbed exactly the message M since the last INIT or reset (R125, clause by clause). -/
structure State.Represents (s : State) (M : List Byte) : Prop where
  len_eq : s.len.toNat = M.length
  bufcnt_eq : s.bufcnt.toNat = s.len.toNat % 64
  buf_eq : s.buf.toList.take s.bufcnt.toNat = M.drop (s.len.toNat - s.bufcnt.toNat)
  h_eq : s.h = foldCompress h0Rom (blocks (M.take (s.len.toNat - s.bufcnt.toNat)))

/-- While Open, some message is represented (R125). -/
def State.BufferInv (s : State) : Prop := s.closed = false → ∃ M, s.Represents M

/-- The two states differ at most in what the spec leaves unspecified: a..h, W and t (R24, R25, R45); BUF past BUFCNT while
Open, and BUF and BUFCNT while Closed (R26, D25). -/
def State.Agree (s t : State) : Prop :=
  t = { s with work := t.work, w := t.w, round := t.round, buf := t.buf, bufcnt := t.bufcnt } ∧
    (s.closed = false →
      t.bufcnt = s.bufcnt ∧ t.buf.toList.take s.bufcnt.toNat = s.buf.toList.take s.bufcnt.toNat)

/-- WR_CMD transactions and RD_DIGEST: the ones held while BUSY = 1 (R201). -/
def heldInstr : Instr → Bool
  | .init => true
  | .update _ => true
  | .finalize => true
  | .rdCmd => false
  | .rdData => false
  | .rdStatus => false
  | .rdRsvd0C => false
  | .rdRsvd1X _ => false
  | .rdDigest _ => true
  | .wrCmd _ => true
  | .wrData _ => false
  | .wrStatus _ => false
  | .wrRsvd0C _ => false
  | .wrRsvd1X _ _ => false
  | .wrDigest _ _ => false

/-- The reads (R57: no read has a side effect). -/
def readInstr : Instr → Bool
  | .init => false
  | .update _ => false
  | .finalize => false
  | .rdCmd => true
  | .rdData => true
  | .rdStatus => true
  | .rdRsvd0C => true
  | .rdRsvd1X _ => true
  | .rdDigest _ => true
  | .wrCmd _ => false
  | .wrData _ => false
  | .wrStatus _ => false
  | .wrRsvd0C _ => false
  | .wrRsvd1X _ _ => false
  | .wrDigest _ _ => false

/-- The transactions of a program, at an engine whose window starts at `base`. -/
def programAccesses (base : Nat) (p : List Instr) : List Access := p.map (encode base)

end Sys2Proof.Machine
end

