-- ==== Sys2Proof/Certificates/Slice0/Obligations.lean ====
section
/-! DEFINITION. The statements for the provers, each naming the rule of spec/ it formalises. -/

open Sys2Proof Sys2Proof.Machine

/-! ## Encoding (30_encoding.md) -/

/-- R72: every row of the access decode table decodes as the table says, exactly one row matches each key with ALIGN = 0, and
no row matches a key with ALIGN ≠ 0. -/
def Obligations.AccessTableDecodes : Prop :=
  (∀ d : Word,
    decodeKey 0x00 d = .ok .rdCmd ∧ decodeKey 0x04 d = .ok .rdData ∧ decodeKey 0x08 d = .ok .rdStatus ∧
    decodeKey 0x0C d = .ok .rdRsvd0C ∧
    (∀ w : BitVec 2, decodeKey (0x10#7 ||| (w.setWidth 7 <<< 2)) d = .ok (.rdRsvd1X w)) ∧
    (∀ i : BitVec 3, decodeKey (0x20#7 ||| (i.setWidth 7 <<< 2)) d = .ok (.rdDigest i)) ∧
    decodeKey 0x40 d = .ok (decodeCommand d) ∧ decodeKey 0x44 d = .ok (.wrData d) ∧
    decodeKey 0x48 d = .ok (.wrStatus d) ∧ decodeKey 0x4C d = .ok (.wrRsvd0C d) ∧
    (∀ w : BitVec 2, decodeKey (0x50#7 ||| (w.setWidth 7 <<< 2)) d = .ok (.wrRsvd1X w d)) ∧
    (∀ i : BitVec 3, decodeKey (0x60#7 ||| (i.setWidth 7 <<< 2)) d = .ok (.wrDigest i d))) ∧
  (∀ key : BitVec 7, key.toNat % 4 = 0 → (keyRows.filter (keyMatches key)).length = 1) ∧
  (∀ key : BitVec 7, key.toNat % 4 ≠ 0 →
    keyRows.filter (keyMatches key) = [] ∧ ∀ d, decodeKey key d = .error .misaligned)

/-- R74: the command opcode map. The patterns and masks of its three rows, the four UPDATE words, and every other word
illegal. -/
def Obligations.CommandMapDecodes : Prop :=
  (∀ v : Word, decodeCommand v = .init ↔ v = 0x00000001) ∧
  (∀ v : Word, (∃ nbm1, decodeCommand v = .update nbm1) ↔ v &&& 0xFFFFFFCF = 0x00000002) ∧
  (∀ v : Word, decodeCommand v = .finalize ↔ v = 0x00000003) ∧
  decodeCommand 0x00000002 = .update 0 ∧ decodeCommand 0x00000012 = .update 1 ∧
  decodeCommand 0x00000022 = .update 2 ∧ decodeCommand 0x00000032 = .update 3 ∧
  (∀ nbm1 : BitVec 2, updateCount nbm1 = nbm1.toNat + 1) ∧
  (∀ v : Word, illegalCommand v = true ↔ v ∉ legalCommandWords) ∧
  (∀ v : Word, v ∉ legalCommandWords → decodeCommand v = .wrCmd v)

/-- R77 and R211: which words are illegal (OP = v mod 16, NBM1 = v / 16 mod 4, RSVD = v / 64), and that writing one while
BUSY = 0, Open or Closed, sets ERR_CMD and does nothing else. -/
def Obligations.IllegalCommandWordRaises : Prop :=
  (∀ v : Word, illegalCommand v = true ↔
    (¬(v.toNat % 16 = 1 ∨ v.toNat % 16 = 2 ∨ v.toNat % 16 = 3) ∨ v.toNat / 64 ≠ 0 ∨
      ((v.toNat % 16 = 1 ∨ v.toNat % 16 = 3) ∧ v.toNat / 16 % 4 ≠ 0))) ∧
  illegalCommand 0 = true ∧
  (∀ (v : Word) (s : State), illegalCommand v = true → s.busy = false →
    exec (.wrCmd v) s = .next { s with errCmd := true, queue := s.queue.tail }) ∧
  (∃ t, exec (.wrCmd 0) State.reset = .next t ∧ t.statusWord = 0x00000020)

/-- Decode and encode agree: every well-formed transaction, at every base address and with every operand, decodes to
itself. -/
def Obligations.DecodeOfEncode : Prop :=
  ∀ (base : Nat) (i : Instr), i.wf = true → decode base (encode base i) = .ok i

/-- Every access the decoder accepts is the encoding of the well-formed instruction it decodes to: nothing is accepted
under two spellings. -/
def Obligations.EncodeOfDecode : Prop :=
  ∀ (base : Nat) (a : Access) (i : Instr), decode base a = .ok i → i.wf = true ∧ encode base i = a

/-- R219: an access that touches the window and is misaligned, not 4 bytes wide or across an edge of the window is refused,
and the refusal marks the whole run. -/
def Obligations.BadAccessRefused : Prop :=
  ∀ (s : State) (a : Access) (rest : List Access),
    s.queue = a :: rest → s.resetNow = false → s.completionDue = false →
    outsideWindow s.engineBase a = false →
    ((accessAddr a - s.engineBase) % 4 ≠ 0 ∨ accessWidth a ≠ 4 ∨ accessAddr a < s.engineBase ∨
      s.engineBase + 64 < accessAddr a + accessWidth a) →
    ∃ r, step s = .refused r ∧ ∀ k, core.run (k + 1) s = .refused r

/-- An access wholly outside ENGINE_BASE..ENGINE_BASE+0x3F is not the engine's (20_memory.md section 1): the model's choice
is a fault (assumption log 8). -/
def Obligations.OutsideWindowFaults : Prop :=
  ∀ (s : State) (a : Access) (rest : List Access),
    s.queue = a :: rest → s.resetNow = false → s.completionDue = false →
    (s.engineBase + 64 ≤ accessAddr a ∨
      (accessAddr a < s.engineBase ∧ accessAddr a + accessWidth a ≤ s.engineBase)) →
    step s = .fault .outsideWindow

/-- A few words of the opcode table: the command words and the keys of 95_test_vectors.md section 2.1, each with what it decodes
to. That the table numbers a key as one byte, and that the write data of an access row, to which the table gives no bits, is 0,
are the model's own deductions (assumption log 14). -/
def Obligations.TableWordsDecode : Prop :=
  decodeTableWord 32 0x00000001 = some .init ∧ decodeTableWord 32 0x00000012 = some (.update 1) ∧
  decodeTableWord 32 0x00000003 = some .finalize ∧ decodeTableWord 8 0x08 = some .rdStatus ∧
  decodeTableWord 8 0x14 = some (.rdRsvd1X 1) ∧ decodeTableWord 8 0x3C = some (.rdDigest 7) ∧
  decodeTableWord 8 0x44 = some (.wrData 0) ∧ decodeTableWord 8 0x64 = some (.wrDigest 1 0) ∧
  decodeTableWord 8 0x02 = none

/-! ## Steps, holds, reset (45_host_commands.md section 1; 70_reset_and_hazards.md) -/

/-- When the transaction at the port decodes, and no reset or completion takes this step, step is exec of the decoded
instruction on the state with one reset sample and one step of latency gone (the model's own order of steps and its two counts:
assumption logs 2 and 7). -/
def Obligations.StepRunsDecodedInstruction : Prop :=
  ∀ (s : State) (a : Access) (rest : List Access) (i : Instr),
    s.resetNow = false → s.completionDue = false → s.queue = a :: rest → decode s.engineBase a = .ok i →
    step s = exec i { s with resetLine := s.resetLine.tail, latencyLeft := s.latencyLeft - 1 }

/-- The transaction that opcode-table bits stand for, placed at the port of any engine at any base, is what the very next
step runs (the model's own way of loading a program: assumption log 6). -/
def Obligations.PlacedTableWordRuns : Prop :=
  ∀ (s : State) (nbits w : Nat) (i : Instr), decodeTableWord nbits w = some i →
    step (s.withFetchWord nbits w) = exec i (s.withFetchWord nbits w).tick ∧
    (s.withFetchWord nbits w).queue.tail = s.queue ∧ (s.withFetchWord nbits w).phase = s.phase

/-- The engine's completion step: when it is due it is the step taken, it ends BUSY, and the host's transaction still stands
at the port (R201, R203; when it is due is the model's choice, assumption log 2). -/
def Obligations.CompletionStepTaken : Prop :=
  ∀ s : State, s.busy = true → s.latencyLeft = 0 → s.resetNow = false →
    ∃ t, step s = .next t ∧ t = ({ s with resetLine := s.resetLine.tail } : State).complete ∧ t.busy = false ∧
      t.queue = s.queue ∧ t.results = s.results ∧ t.data = s.data

/-- R201's holds: while BUSY = 1 a WR_CMD and an RD_DIGEST have no effect at all and still stand at the port; every other
transaction is done whatever BUSY is, and every transaction is done when BUSY = 0. (That a held transaction answers the same
state is the model's form of having no step: assumption log 13.) -/
def Obligations.HeldWhileBusy : Prop :=
  (∀ (i : Instr) (s : State), heldInstr i = true → s.busy = true → exec i s = .next s) ∧
  (∀ (i : Instr) (s : State), heldInstr i = false ∨ s.busy = false →
    ∃ t, exec i s = .next t ∧ t.queue = s.queue.tail)

/-- Every BUSY interval ends (R201, R285): from any busy state, with no reset ahead and no bad access in the host's
transactions, the engine is idle after latencyLeft + 1 steps (the model's count of steps: assumption log 2). -/
def Obligations.BusyEnds : Prop :=
  ∀ s : State, s.busy = true → s.NoReset → s.QueueDecodes →
    ∃ t, core.run (s.latencyLeft + 1) s = .next t ∧ t.busy = false

/-- R257: with BUSY = 0 and no transaction to issue, a step changes nothing but the passing of the model's own reset samples
and latency count (assumption logs 2 and 7). -/
def Obligations.IdleKeepsState : Prop :=
  ∀ s : State, s.busy = false → s.queue = [] → s.resetNow = false →
    step s = .next { s with resetLine := s.resetLine.tail, latencyLeft := s.latencyLeft - 1 }

/-- R44: the values after reset, the ROMs among them (the elements R44 leaves unspecified are not claimed). -/
def Obligations.ResetValues : Prop :=
  State.reset.h = #v[0x6a09e667, 0xbb67ae85, 0x3c6ef372, 0xa54ff53a, 0x510e527f, 0x9b05688c, 0x1f83d9ab, 0x5be0cd19] ∧
  State.reset.bufcnt = 0 ∧ State.reset.len = 0 ∧ State.reset.phase = .idle ∧ State.reset.data = 0x00000000 ∧
  State.reset.statusWord = 0x00000000 ∧ (∀ i, State.reset.digestWord i = 0x00000000) ∧
  h0Rom = #v[0x6a09e667, 0xbb67ae85, 0x3c6ef372, 0xa54ff53a, 0x510e527f, 0x9b05688c, 0x1f83d9ab, 0x5be0cd19] ∧
  kRom.length = 64 ∧
  (let row := fun r => (List.range 8).map fun j => kAt (8 * r + j)
   row 0 = [0x428a2f98, 0x71374491, 0xb5c0fbcf, 0xe9b5dba5, 0x3956c25b, 0x59f111f1, 0x923f82a4, 0xab1c5ed5] ∧
    row 1 = [0xd807aa98, 0x12835b01, 0x243185be, 0x550c7dc3, 0x72be5d74, 0x80deb1fe, 0x9bdc06a7, 0xc19bf174] ∧
    row 2 = [0xe49b69c1, 0xefbe4786, 0x0fc19dc6, 0x240ca1cc, 0x2de92c6f, 0x4a7484aa, 0x5cb0a9dc, 0x76f988da] ∧
    row 3 = [0x983e5152, 0xa831c66d, 0xb00327c8, 0xbf597fc7, 0xc6e00bf3, 0xd5a79147, 0x06ca6351, 0x14292967] ∧
    row 4 = [0x27b70a85, 0x2e1b2138, 0x4d2c6dfc, 0x53380d13, 0x650a7354, 0x766a0abb, 0x81c2c92e, 0x92722c85] ∧
    row 5 = [0xa2bfe8a1, 0xa81a664b, 0xc24b8b70, 0xc76c51a3, 0xd192e819, 0xd6990624, 0xf40e3585, 0x106aa070] ∧
    row 6 = [0x19a4c116, 0x1e376c08, 0x2748774c, 0x34b0bcb5, 0x391c0cb3, 0x4ed8aa4a, 0x5b9cca4f, 0x682e6ff3] ∧
    row 7 = [0x748f82ee, 0x78a5636f, 0x84c87814, 0x8cc70208, 0x90befffa, 0xa4506ceb, 0xbef9a3f7, 0xc67178f2])

/-- A reset event, also while a command is pending or a transaction is held, aborts the pending command, leaves the engine in
the reset state with no completion step to follow, and leaves the host's transaction, held or not, to act on the reset state
(70_reset_and_hazards.md section 1). That the event takes a step of its own, before the transaction, and that a transaction which
was not held then runs as well, is the model's order of steps and samples (assumption log 7). -/
def Obligations.ResetEventAborts : Prop :=
  ∀ s : State, s.resetNow = true →
    ∃ t, step s = .next t ∧ t.h = h0Rom ∧ t.bufcnt = 0 ∧ t.len = 0 ∧ t.phase = .idle ∧ t.data = 0 ∧
      t.statusWord = 0 ∧ (∀ i, t.digestWord i = 0) ∧ t.completionDue = false ∧
      t.queue = s.queue ∧ t.results = s.results ∧ t.baseBlock = s.baseBlock ∧
      (t.resetNow = false → ∀ (a : Access) (rest : List Access) (i : Instr),
        s.queue = a :: rest → decode s.engineBase a = .ok i → step t = exec i t.tick ∧ t.tick.busy = false)

/-- Apart from DATA, the state after reset equals the state after an INIT completes from any idle state (the unspecified elements
are free in both); reset sets DATA ← 0, INIT keeps it; reset also aborts a pending command, INIT cannot be issued while BUSY = 1
(70_reset_and_hazards.md section 1). That the held INIT answers the same state is the model's form of having no step (assumption
log 13). -/
def Obligations.ResetEqualsInitButData : Prop :=
  (∀ s r : State, s.busy = false →
    ∃ t, exec .init s = .next t ∧
      t.complete.h = r.takeReset.h ∧ t.complete.bufcnt = r.takeReset.bufcnt ∧ t.complete.len = r.takeReset.len ∧
      t.complete.phase = r.takeReset.phase ∧ t.complete.statusWord = r.takeReset.statusWord ∧
      t.complete.data = s.data ∧ r.takeReset.data = 0 ∧ r.takeReset.busy = false) ∧
  (∀ s : State, s.busy = true → exec .init s = .next s)

/-! ## Register accesses (45_host_commands.md section 3) -/

/-- R212: WR_DATA writes DATA, is never held, writes no flag, and leaves the bytes a pending UPDATE latched; a read of DATA
then returns the word. -/
def Obligations.WriteDataStores : Prop :=
  ∀ (v : Word) (s : State),
    exec (.wrData v) s = .next { s with data := v, queue := s.queue.tail } ∧
    ∃ t u, exec (.wrData v) s = .next t ∧ exec .rdData t = .next u ∧ t.phase = s.phase ∧
      t.statusWord = s.statusWord ∧ u.results = s.results ++ [v]

/-- R213: RD_DATA returns DATA, is never held and has no side effect; after reset it returns 0. -/
def Obligations.ReadDataReturnsData : Prop :=
  (∀ s : State,
    exec .rdData s = .next { s with results := s.results ++ [s.data], queue := s.queue.tail }) ∧
  exec .rdData State.reset = .next { State.reset with results := [0x00000000] }

/-- R214: the word RD_STATUS returns, never held and without side effect, and its common values. -/
def Obligations.ReadStatusPacksFlags : Prop :=
  (∀ s : State, ∃ x : Word,
    exec .rdStatus s = .next { s with results := s.results ++ [x], queue := s.queue.tail } ∧
    x.toNat = s.closed.toNat + 2 * s.dvalid.toNat + 4 * s.busy.toNat + 8 * s.errState.toNat +
      16 * s.errLength.toNat + 32 * s.errCmd.toNat) ∧
  (∀ s : State, s.errState = false → s.errLength = false → s.errCmd = false →
    (s.closed = false → s.dvalid = false → s.busy = false → s.statusWord = 0x00000000) ∧
    (s.closed = false → s.dvalid = false → s.busy = true → s.statusWord = 0x00000004) ∧
    (s.closed = true → s.dvalid = true → s.busy = false → s.statusWord = 0x00000003)) ∧
  (∀ s : State, s.closed = true → s.dvalid = false → s.busy = false → s.errState = false → s.errLength = true →
    s.errCmd = false → s.statusWord = 0x00000011)

/-- DIGESTi reads H[i], whose big-endian bytes are digest bytes 4i..4i+3, when CLOSED = 1 and DVALID = 1, and 0 otherwise; a
write is ignored (10_state.md section 5); the read is held while BUSY = 1 (45_host_commands.md sections 1 and 3). That the held
read answers the same state is the model's form of having no step (assumption log 13). -/
def Obligations.ReadDigest : Prop :=
  (∀ (i : BitVec 3) (s : State), s.busy = false → s.closed = true → s.dvalid = true →
    exec (.rdDigest i) s = .next { s with
      results := s.results ++ [s.h[i.toNat]'(by have := i.isLt; omega)], queue := s.queue.tail } ∧
    s.h[i.toNat]'(by have := i.isLt; omega) = be32 (serialize s.h) (4 * i.toNat)) ∧
  (∀ (i : BitVec 3) (s : State), s.busy = false → ¬(s.closed = true ∧ s.dvalid = true) →
    exec (.rdDigest i) s = .next { s with results := s.results ++ [0x00000000], queue := s.queue.tail }) ∧
  (∀ (i : BitVec 3) (s : State), s.busy = true → exec (.rdDigest i) s = .next s) ∧
  (∀ (i : BitVec 3) (v : Word) (s : State), exec (.wrDigest i v) s = .next { s with queue := s.queue.tail })

/-- R216, R217 and R218: RD_CMD and RD_RSVD return 0; WR_STATUS, WR_DIGEST and WR_RSVD change nothing, whatever their
operand; none of them is held or sets a flag. -/
def Obligations.ZeroReadsAndIgnoredWrites : Prop :=
  (∀ s : State, exec .rdCmd s =
    .next { s with results := s.results ++ [0x00000000], queue := s.queue.tail }) ∧
  (∀ s : State, exec .rdRsvd0C s =
    .next { s with results := s.results ++ [0x00000000], queue := s.queue.tail }) ∧
  (∀ (w : BitVec 2) (s : State), exec (.rdRsvd1X w) s =
    .next { s with results := s.results ++ [0x00000000], queue := s.queue.tail }) ∧
  (∀ (v : Word) (s : State), exec (.wrStatus v) s = .next { s with queue := s.queue.tail }) ∧
  (∀ (i : BitVec 3) (v : Word) (s : State), exec (.wrDigest i v) s = .next { s with queue := s.queue.tail }) ∧
  (∀ (v : Word) (s : State), exec (.wrRsvd0C v) s = .next { s with queue := s.queue.tail }) ∧
  (∀ (w : BitVec 2) (v : Word) (s : State), exec (.wrRsvd1X w v) s = .next { s with queue := s.queue.tail })

/-- No read has a side effect (20_memory.md section 3): whatever the read, the state differs only in the word the host has
received, and the same read at the state it leaves returns the same word. -/
def Obligations.ReadsHaveNoSideEffect : Prop :=
  ∀ (i : Instr) (s : State), readInstr i = true → heldInstr i = false ∨ s.busy = false →
    ∃ (x : Word) (t u : State),
      exec i s = .next t ∧ t = { s with results := s.results ++ [x], queue := s.queue.tail } ∧
      exec i t = .next u ∧ u.results = s.results ++ [x, x]

/-- No internal state can be read (60_exceptions.md section 4, 10_state.md sections 3 and 6): what a read returns does not depend
on a..h, W, BUF, BUFCNT or LEN, nor on SEQ (t and the pending command with its latched bytes) but for BUSY, nor on H unless
CLOSED = 1 and DVALID = 1; nor on the model's own counts of latency and free values. -/
def Obligations.HiddenStateNotReadable : Prop :=
  ∀ (i : Instr) (s t s' t' : State), readInstr i = true →
    t = { s with
      h := t.h, work := t.work, w := t.w, round := t.round, buf := t.buf, bufcnt := t.bufcnt, len := t.len,
      phase := t.phase, latencyLeft := t.latencyLeft, freeCount := t.freeCount } →
    t.busy = s.busy → (s.closed = true ∧ s.dvalid = true → t.h = s.h) →
    exec i s = .next s' → exec i t = .next t' → t'.results = s'.results

/-! ## Commands (45_host_commands.md section 2; 60_exceptions.md) -/

/-- R204: INIT, the word 0x00000001, is accepted in every state with BUSY = 0 whatever the flags, and
nothing but SEQ changes; its completion loads H0, empties the buffer and the count (so no earlier byte counts any
more), clears the flags, keeps DATA, and DIGESTi
reads 0. -/
def Obligations.InitCommand : Prop :=
  ∀ s : State, s.busy = false →
    decodeCommand 0x00000001 = .init ∧ ∃ t, exec .init s = .next t ∧
      t = { s with
        phase := .busy .init, latencyLeft := t.latencyLeft, freeCount := t.freeCount, queue := s.queue.tail } ∧
      t.complete.h = h0Rom ∧ t.complete.bufcnt = 0 ∧ t.complete.len = 0 ∧ t.complete.Represents [] ∧
      t.complete.closed = false ∧ t.complete.dvalid = false ∧ t.complete.errState = false ∧
      t.complete.errLength = false ∧ t.complete.errCmd = false ∧ t.complete.busy = false ∧
      t.complete.statusWord = 0x00000000 ∧ t.complete.data = s.data ∧ ∀ i, t.complete.digestWord i = 0

/-- R205 and R76: UPDATE, the word 0x00000002 OR (NBM1 << 4). While BUSY = 0, Open and with room in LEN it is accepted and
nothing but SEQ changes; the n = NBM1 + 1 latched bytes are DATA[31:24], DATA[23:16], DATA[15:8], DATA[7:0], the first n of
them, the others do not matter, and a later write of DATA does not change them. Its completion absorbs them in order and adds n
to LEN; DATA, the flags and the ERR bits keep their values. -/
def Obligations.UpdateCommand : Prop :=
  (∀ (nbm1 : BitVec 2) (s : State), s.busy = false → s.closed = false →
    s.len.toNat + (nbm1.toNat + 1) ≤ 2 ^ 61 - 1 →
    decodeCommand (0x00000002#32 ||| (nbm1.setWidth 32 <<< 4)) = .update nbm1 ∧
    ∃ t bytes, exec (.update nbm1) s = .next t ∧
      t = { s with
        phase := .busy (.update bytes), latencyLeft := t.latencyLeft, freeCount := t.freeCount,
        queue := s.queue.tail } ∧
      bytes.length = nbm1.toNat + 1 ∧
      (∀ k, k < bytes.length → (byteAt bytes k).toNat = s.data.toNat / 256 ^ (3 - k) % 256) ∧
      (∀ v, ∃ u, exec (.wrData v) t = .next u ∧ u.data = v ∧ u.phase = .busy (.update bytes)) ∧
      t.complete.len.toNat = s.len.toNat + (nbm1.toNat + 1) ∧ t.complete.busy = false ∧
      t.complete.h = (bytes.foldl State.absorb t).h ∧ t.complete.bufcnt = (bytes.foldl State.absorb t).bufcnt ∧
      t.complete.buf = (bytes.foldl State.absorb t).buf ∧ t.complete.data = s.data ∧ t.complete.closed = false ∧
      t.complete.dvalid = s.dvalid ∧ t.complete.errState = s.errState ∧ t.complete.errLength = s.errLength ∧
      t.complete.errCmd = s.errCmd) ∧
  (∀ (nbm1 : BitVec 2) (d d' : Word),
    d.toNat / 256 ^ (3 - nbm1.toNat) = d'.toNat / 256 ^ (3 - nbm1.toNat) → latchBytes nbm1 d = latchBytes nbm1 d')

/-- R206: UPDATE while Closed sets ERR_STATE at once, with no BUSY, and nothing else changes. -/
def Obligations.UpdateWhileClosed : Prop :=
  ∀ (nbm1 : BitVec 2) (s : State), s.busy = false → s.closed = true →
    ∃ t, exec (.update nbm1) s = .next t ∧ t = { s with errState := true, queue := s.queue.tail } ∧
      t.busy = false ∧ ∀ i, t.digestWord i = s.digestWord i

/-- R210: FINALIZE while Closed sets ERR_STATE and nothing else; a second FINALIZE gives STATUS 0x0000000B with DIGESTi
unchanged. -/
def Obligations.FinalizeWhileClosed : Prop :=
  ∀ s : State, s.busy = false → s.closed = true →
    ∃ t, exec .finalize s = .next t ∧ t = { s with errState := true, queue := s.queue.tail } ∧
      (∀ i, t.digestWord i = s.digestWord i) ∧
      (s.dvalid = true → s.errLength = false → s.errCmd = false → t.statusWord = 0x0000000B)

/-- R208: UPDATE beyond 2^61 − 1 bytes sets ERR_LENGTH, closes the engine without a digest and absorbs nothing; after it
UPDATE and FINALIZE raise StateError and no transaction by itself reopens the engine; LEN = 2^61 − 1
exactly is still legal, and its length field is 2^64 − 8. -/
def Obligations.UpdateBeyondLimit : Prop :=
  (∀ (nbm1 : BitVec 2) (s : State), s.busy = false → s.closed = false →
    s.len.toNat + (nbm1.toNat + 1) > 2 ^ 61 - 1 →
    ∃ t, exec (.update nbm1) s = .next t ∧
      t = { s with errLength := true, closed := true, dvalid := false, queue := s.queue.tail } ∧
      (∀ i, t.digestWord i = 0) ∧
      (∀ m, exec (.update m) t = .next { t with errState := true, queue := t.queue.tail }) ∧
      exec .finalize t = .next { t with errState := true, queue := t.queue.tail } ∧
      (∀ i u, exec i t = .next u → u.closed = true)) ∧
  (∀ (nbm1 : BitVec 2) (s : State), s.busy = false → s.closed = false →
    s.len.toNat + (nbm1.toNat + 1) = 2 ^ 61 - 1 → ∃ t, exec (.update nbm1) s = .next t ∧ t.busy = true) ∧
  lengthField (2 ^ 61 - 1) = [0xff, 0xff, 0xff, 0xff, 0xff, 0xff, 0xff, 0xf8]

/-- R209: FINALIZE, the word 0x00000003, is accepted while BUSY = 0 and Open, and nothing but SEQ changes; its completion
compresses the blocks of pad_tail (one when BUFCNT ≤ 55, else two) in order, sets CLOSED and DVALID, keeps LEN, DATA and the ERR
bits, and DIGESTi then reads the serialized H. -/
def Obligations.FinalizeCommand : Prop :=
  ∀ s : State, s.busy = false → s.closed = false →
    decodeCommand 0x00000003 = .finalize ∧ ∃ t, exec .finalize s = .next t ∧
      t = { s with
        phase := .busy .finalize, latencyLeft := t.latencyLeft, freeCount := t.freeCount, queue := s.queue.tail } ∧
      t.complete.h = foldCompress s.h (padTail s.buf s.bufcnt.toNat s.len.toNat) ∧
      (padTail s.buf s.bufcnt.toNat s.len.toNat).length = (if s.bufcnt.toNat ≤ 55 then 1 else 2) ∧
      (∀ i : BitVec 3, t.complete.digestWord i = be32 (serialize t.complete.h) (4 * i.toNat)) ∧
      t.complete.closed = true ∧ t.complete.dvalid = true ∧ t.complete.busy = false ∧
      t.complete.len = s.len ∧ t.complete.data = s.data ∧ t.complete.errState = s.errState ∧
      t.complete.errLength = s.errLength ∧ t.complete.errCmd = s.errCmd

/-- The whole dispatch of a write of the word v to CMD while BUSY = 0, its checks in the order of the spec's code
(45_host_commands.md section 1). That the raw write and the command its word decodes to are two spellings with one meaning is the
model's deduction (assumption log 14), and that a write held while BUSY = 1 answers the same state is its form of having no step
(assumption log 13). -/
def Obligations.CommandWriteDispatches : Prop :=
  (∀ (v : Word) (s : State), s.busy = false → ∃ t, exec (.wrCmd v) s = .next t ∧
    (if illegalCommand v = true then t = { s with errCmd := true, queue := s.queue.tail }
     else if v.toNat % 16 = 1 then
       t = { s with
         phase := .busy .init, latencyLeft := t.latencyLeft, freeCount := t.freeCount, queue := s.queue.tail }
     else if s.closed = true then t = { s with errState := true, queue := s.queue.tail }
     else if v.toNat % 16 = 3 then
       t = { s with
         phase := .busy .finalize, latencyLeft := t.latencyLeft, freeCount := t.freeCount, queue := s.queue.tail }
     else if s.len.toNat + (v.toNat / 16 % 4 + 1) > 2 ^ 61 - 1 then
       t = { s with errLength := true, closed := true, dvalid := false, queue := s.queue.tail }
     else
       t = { s with
         phase := .busy (.update ((be32bytes s.data).take (v.toNat / 16 % 4 + 1))), latencyLeft := t.latencyLeft,
         freeCount := t.freeCount, queue := s.queue.tail })) ∧
  (∀ (v : Word) (s : State), exec (.wrCmd v) s = exec (decodeCommand v) s) ∧
  (∀ (v : Word) (s : State), s.busy = true → exec (.wrCmd v) s = .next s)

/-- R245: one WR_CMD sets at most one ERR bit, the first that applies in the order IllegalCommand, StateError,
LengthOverflow; the other bits keep their values. -/
def Obligations.ErrorPriority : Prop :=
  ∀ (v : Word) (s t : State), s.busy = false → exec (.wrCmd v) s = .next t →
    if illegalCommand v = true then
      t.errCmd = true ∧ t.errState = s.errState ∧ t.errLength = s.errLength
    else if v ≠ 0x00000001 ∧ s.closed = true then
      t.errState = true ∧ t.errCmd = s.errCmd ∧ t.errLength = s.errLength
    else if v &&& 0xFFFFFFCF = 0x00000002 ∧ s.len.toNat + (v.toNat / 16 + 1) > 2 ^ 61 - 1 then
      t.errLength = true ∧ t.errCmd = s.errCmd ∧ t.errState = s.errState
    else t.errCmd = s.errCmd ∧ t.errState = s.errState ∧ t.errLength = s.errLength

/-- R246: a command write is accepted whole or rejected whole, in each of its spellings. Rejected, it has exactly one of three
next states: ERR_CMD set and nothing else; ERR_STATE set, the engine being Closed, and nothing else; ERR_LENGTH set, the engine
being Open, with CLOSED ← 1 and DVALID ← 0 and nothing else. An accepted UPDATE has all its n bytes pending. -/
def Obligations.ErrorsArePrecise : Prop :=
  (∀ (i : Instr) (s t : State), heldInstr i = true → readInstr i = false → s.busy = false →
    exec i s = .next t → t.busy = false →
    t = { s with errCmd := true, queue := s.queue.tail } ∨
    (s.closed = true ∧ t = { s with errState := true, queue := s.queue.tail }) ∨
    (s.closed = false ∧
      t = { s with errLength := true, closed := true, dvalid := false, queue := s.queue.tail })) ∧
  (∀ (v : Word) (s t : State), s.busy = false → exec (.wrCmd v) s = .next t → t.busy = false →
    (t = { s with errCmd := true, queue := s.queue.tail } ∧ illegalCommand v = true) ∨
    (t = { s with errState := true, queue := s.queue.tail } ∧ illegalCommand v = false ∧ s.closed = true) ∨
    (t = { s with errLength := true, closed := true, dvalid := false, queue := s.queue.tail } ∧
      illegalCommand v = false ∧ s.closed = false)) ∧
  (∀ (nbm1 : BitVec 2) (s t : State), s.busy = false → exec (.update nbm1) s = .next t → t.busy = true →
    ∃ bytes, t.phase = .busy (.update bytes) ∧ bytes.length = nbm1.toNat + 1)

/-- R203, acceptance: whatever transaction makes BUSY 1, STATUS still shows every other field at its value before, and
nothing but SEQ (and the port) has changed. -/
def Obligations.AcceptanceChangesOnlySequencer : Prop :=
  ∀ (i : Instr) (s t : State), s.busy = false → exec i s = .next t → t.busy = true →
    t = { s with
      phase := t.phase, latencyLeft := t.latencyLeft, freeCount := t.freeCount, queue := s.queue.tail } ∧
    t.statusWord = s.statusWord ||| 0x00000004

/-- R247: an ERR bit, once set, stays set at every step but a reset event and the completion of an INIT, and those two clear
all three and reopen the engine. -/
def Obligations.ErrorBitsSticky : Prop :=
  ∀ s t : State, step s = .next t →
    if s.resetNow = true ∨ (s.completionDue = true ∧ s.phase = .busy .init) then
      t.errState = false ∧ t.errLength = false ∧ t.errCmd = false ∧ t.closed = false
    else
      (s.errState = true → t.errState = true) ∧ (s.errLength = true → t.errLength = true) ∧
      (s.errCmd = true → t.errCmd = true)

/-! ## Frames and invariants -/

/-- The frame of every transaction (10_state.md R23, 45_host_commands.md R203): none changes H, a..h, W, t, BUF, BUFCNT, LEN
or ENGINE_BASE; only WR_DATA changes DATA; only reads return a word; only the three commands and the raw command write
change SEQ or a flag. -/
def Obligations.TransactionFrame : Prop :=
  ∀ (i : Instr) (s t : State), exec i s = .next t →
    t.h = s.h ∧ t.work = s.work ∧ t.w = s.w ∧ t.round = s.round ∧ t.buf = s.buf ∧ t.bufcnt = s.bufcnt ∧
    t.len = s.len ∧ t.baseBlock = s.baseBlock ∧ t.resetLine = s.resetLine ∧
    ((∀ v, i ≠ .wrData v) → t.data = s.data) ∧
    (readInstr i = false → t.results = s.results) ∧
    ((∀ n, i ≠ .update n) → (∀ v, i ≠ .wrCmd v) → i ≠ .init → i ≠ .finalize →
      t.phase = s.phase ∧ t.statusWord = s.statusWord ∧ t.latencyLeft = s.latencyLeft ∧ t.freeCount = s.freeCount)

/-- K and H0 being constants, the writers of H are the completion of a command and reset alone (10_state.md R23): at every
other step H, and with it LEN, BUFCNT, BUF, keep their values; and no step at all moves ENGINE_BASE, which stays aligned
to 64 bytes (20_memory.md R52). -/
def Obligations.HashStateWriters : Prop :=
  ∀ s t : State, step s = .next t →
    t.engineBase = s.engineBase ∧ t.engineBase % 64 = 0 ∧
    (s.resetNow = false → s.completionDue = false →
      t.h = s.h ∧ t.len = s.len ∧ t.bufcnt = s.bufcnt ∧ t.buf = s.buf)

/-- The reset state meets both invariants. -/
def Obligations.ResetMeetsInvariants : Prop := State.reset.Inv ∧ State.reset.BufferInv

/-- Every step keeps the invariant (10_state.md R37; 41_block_buffer.md R125; 45_host_commands.md R208). -/
def Obligations.StepKeepsInv : Prop :=
  ∀ s t : State, s.Inv → step s = .next t → t.Inv

/-- R125: every step keeps the buffer invariant: while Open, LEN, BUFCNT, BUF and H are those of some absorbed message. -/
def Obligations.StepKeepsBufferInv : Prop :=
  ∀ s t : State, s.Inv → s.BufferInv → step s = .next t → t.BufferInv

/-- R222: while CLOSED = 1, no step but a reset event and the completion of an INIT changes H, CLOSED, DVALID or DIGESTi. -/
def Obligations.DigestStable : Prop :=
  ∀ s t : State, s.Inv → s.closed = true → step s = .next t → s.resetNow = false →
    ¬(s.completionDue = true ∧ s.phase = .busy .init) →
    t.h = s.h ∧ t.closed = true ∧ t.dvalid = s.dvalid ∧ ∀ i, t.digestWord i = s.digestWord i

/-- No step reads an unspecified value (00_scope.md R13, 10_state.md R45): two states that agree on everything else step to
states that agree on everything else, so no observation depends on one. -/
def Obligations.UnspecifiedNeverRead : Prop :=
  ∀ s t : State, s.Inv → s.Agree t →
    match step s with
    | .next s' => ∃ t', step t = .next t' ∧ s'.Agree t' ∧ t'.observation = s'.observation
    | .fault r => step t = .fault r
    | .refused r => step t = .refused r

/-! ## The data path (40_padder.md to 44_digest.md) -/

/-- R140, R141, R160, R162: the four bit mixers, bit by bit, and the spec's corner values. -/
def Obligations.SigmaBits : Prop :=
  (∀ (x : Word) (i : Nat), i < 32 →
    (s0 x).getLsbD i = ((x.getLsbD ((i + 7) % 32) ^^ x.getLsbD ((i + 18) % 32)) ^^ x.getLsbD (i + 3)) ∧
    (s1 x).getLsbD i = ((x.getLsbD ((i + 17) % 32) ^^ x.getLsbD ((i + 19) % 32)) ^^ x.getLsbD (i + 10)) ∧
    (S0 x).getLsbD i =
      ((x.getLsbD ((i + 2) % 32) ^^ x.getLsbD ((i + 13) % 32)) ^^ x.getLsbD ((i + 22) % 32)) ∧
    (S1 x).getLsbD i =
      ((x.getLsbD ((i + 6) % 32) ^^ x.getLsbD ((i + 11) % 32)) ^^ x.getLsbD ((i + 25) % 32))) ∧
  s0 0 = 0 ∧ s0 0xFFFFFFFF = 0x1FFFFFFF ∧ s0 0x00000001 = 0x02004000 ∧ s0 0x80000000 = 0x11002000 ∧
  s0 0x12345678 = 0xe7fce6ee ∧
  s1 0 = 0 ∧ s1 0xFFFFFFFF = 0x003FFFFF ∧ s1 0x00000001 = 0x0000a000 ∧ s1 0x80000000 = 0x00205000 ∧
  s1 0x12345678 = 0xa1f78649 ∧
  S1 0 = 0 ∧ S1 0xFFFFFFFF = 0xFFFFFFFF ∧ S1 0x00000001 = 0x04200080 ∧ S1 0x510e527f = 0x3587272b ∧
  S0 0 = 0 ∧ S0 0xFFFFFFFF = 0xFFFFFFFF ∧ S0 0x00000001 = 0x40080400 ∧ S0 0x6a09e667 = 0xce20b47e

/-- R161, R163: each bit of e chooses f or g; each bit of maj is the majority of the three; and the spec's values. -/
def Obligations.ChoiceAndMajorityBits : Prop :=
  (∀ (e f g : Word) (i : Nat), i < 32 →
    (ch e f g).getLsbD i = (if e.getLsbD i then f.getLsbD i else g.getLsbD i) ∧
    ((maj e f g).getLsbD i = true ↔
      2 ≤ (e.getLsbD i).toNat + (f.getLsbD i).toNat + (g.getLsbD i).toNat)) ∧
  (∀ f g : Word, ch 0 f g = g ∧ ch 0xFFFFFFFF f g = f ∧ maj 0 0 f = 0 ∧ maj 0xFFFFFFFF 0 f = f) ∧
  ch 0xf0f0f0f0 0xaaaaaaaa 0x55555555 = 0xa5a5a5a5 ∧ ch 0x510e527f 0x9b05688c 0x1f83d9ab = 0x1f85c98c ∧
  maj 0xf0f0f0f0 0xcccccccc 0xaaaaaaaa = 0xe8e8e8e8 ∧ maj 0x6a09e667 0xbb67ae85 0x3c6ef372 = 0x3a6fe667

/-- R142, R143: the schedule of every block, word by word: the load (in big-endian digits) and the expansion; and the
spec's words for the "abc" block. -/
def Obligations.ScheduleRecurrence : Prop :=
  (∀ B : Block,
    (∀ j (hj : j < 16),
      (schedule B)[j].toNat =
        B[4 * j].toNat * 2 ^ 24 + B[4 * j + 1].toNat * 2 ^ 16 + B[4 * j + 2].toNat * 2 ^ 8 + B[4 * j + 3].toNat) ∧
    (∀ t (ht : t < 64), 16 ≤ t →
      (schedule B)[t] = (schedule B)[t - 16] + s0 (schedule B)[t - 15] + (schedule B)[t - 7] +
        s1 (schedule B)[t - 2])) ∧
  (let W := schedule (blockAt (pad [0x61, 0x62, 0x63]) 0);
    W[0] = 0x61626380 ∧ W[15] = 0x00000018 ∧ W[16] = 0x61626380 ∧ W[17] = 0x000f0000 ∧ W[18] = 0x7da86405 ∧
      W[63] = 0x12b1edeb)

/-- R164 to R167: one round computes all eight new values from the old ones, and permute applies rounds 0, 1, ..., 63 in
that order to the working variables loaded from H; and the spec's example of round 0 of the "abc" block. -/
def Obligations.PermuteRunsRounds : Prop :=
  (∀ (k w a b c d e f g h : Word),
    let t1 := h + S1 e + ch e f g + k + w
    let t2 := S0 a + maj a b c
    roundStep k w ⟨a, b, c, d, e, f, g, h⟩ = ⟨t1 + t2, a, b, c, d + t1, e, f, g⟩) ∧
  (∀ (H : HashState) (W : Schedule),
    permute H W =
      (List.finRange 64).foldl (fun v t => roundStep (kAt t.val) W[t] v)
        ⟨H[0], H[1], H[2], H[3], H[4], H[5], H[6], H[7]⟩) ∧
  roundStep (kAt 0) 0x61626380 (loadWorking h0Rom) =
    ⟨0x5d6aebcd, 0x6a09e667, 0xbb67ae85, 0x3c6ef372, 0xfa2a4622, 0x510e527f, 0x9b05688c, 0x1f83d9ab⟩

/-- R169, R173: the engine compressing a block adds the permuted working variables to H word by word modulo 2^32, and
writes nothing else but a..h, W, t and the model's free-value counter; and the examples: the
"abc" block, and both blocks of the two-block message. -/
def Obligations.CompressBlockAccumulates : Prop :=
  (∀ (s : State) (B : Block),
    (∀ i (hi : i < 8), (s.compressBlock B).h[i] = s.h[i] + (workingWords (permute s.h (schedule B)))[i]) ∧
    s.compressBlock B = { s with
      h := (s.compressBlock B).h, work := (s.compressBlock B).work, w := (s.compressBlock B).w,
      round := (s.compressBlock B).round, freeCount := (s.compressBlock B).freeCount }) ∧
  (compress h0Rom (blockAt (pad [0x61, 0x62, 0x63]) 0)).toList =
    [0xba7816bf, 0x8f01cfea, 0x414140de, 0x5dae2223, 0xb00361a3, 0x96177a9c, 0xb410ff61, 0xf20015ad] ∧
  (let M := "abcdbcdecdefdefgefghfghighijhijkijkljklmklmnlmnomnopnopq".toList.map fun c => BitVec.ofNat 8 c.toNat
   (compress h0Rom (blockAt (pad M) 0)).toList =
      [0x85e655d6, 0x417a1795, 0x3363376a, 0x624cde5c, 0x76e09589, 0xcac5f811, 0xcc4b32c1, 0xf20e533a] ∧
    (compress (compress h0Rom (blockAt (pad M) 0)) (blockAt (pad M) 1)).toList =
      [0x248d6a61, 0xd20638b8, 0xe5c02693, 0x0c3e6039, 0xa33ce459, 0x64ff2167, 0xf6ecedd4, 0x19db06c1])

/-- R101: the length field of every legal length is 8 bytes that spell 8 × L, most significant first. -/
def Obligations.LengthFieldBigEndian : Prop :=
  (∀ L : Nat, L ≤ 2 ^ 61 - 1 →
    (lengthField L).length = 8 ∧ (lengthField L).foldl (fun acc b => 256 * acc + b.toNat) 0 = 8 * L ∧
    8 * L ≤ 2 ^ 64 - 8) ∧
  lengthField 3 = [0, 0, 0, 0, 0, 0, 0, 0x18] ∧ lengthField 56 = [0, 0, 0, 0, 0, 0, 0x01, 0xc0]

/-- R102: align_zeros(L) is the least z with (L + 1 + z) mod 64 = 56, with its corner cases. -/
def Obligations.AlignZerosLeast : Prop :=
  ∀ L : Nat, (alignZeros L : Int) = (55 - (L : Int)) % 64 ∧ alignZeros L < 64 ∧ (L + 1 + alignZeros L) % 64 = 56 ∧
    (∀ z, (L + 1 + z) % 64 = 56 → alignZeros L ≤ z) ∧
    (L % 64 = 55 → alignZeros L = 0) ∧ (L % 64 = 56 → alignZeros L = 63) ∧ (L % 64 = 63 → alignZeros L = 56)

/-- R103, R104: the layout of the padded message and its length in bytes and blocks. -/
def Obligations.PadLayout : Prop :=
  ∀ M : List Byte,
    (pad M).take M.length = M ∧ byteAt (pad M) M.length = 0x80 ∧
    (∀ k, M.length + 1 ≤ k → k < M.length + 1 + alignZeros M.length → byteAt (pad M) k = 0) ∧
    (pad M).drop (M.length + 1 + alignZeros M.length) = lengthField M.length ∧
    (pad M).length = M.length + 9 + alignZeros M.length ∧ (pad M).length % 64 = 0 ∧
    M.length + 9 ≤ (pad M).length ∧ (pad M).length ≤ M.length + 72 ∧
    (blocks (pad M)).length = (if M.length % 64 ≤ 55 then M.length / 64 + 1 else M.length / 64 + 2)

/-- R107, R108: for an engine that has absorbed M, the tail is one block when BUFCNT ≤ 55 and two otherwise, the bytes
already compressed followed by the tail are pad(M), and the blocks compressed from INIT to the end of FINALIZE are those of
pad(M), in order. -/
def Obligations.TailAgreesWithPad : Prop :=
  ∀ (s : State) (M : List Byte), s.Represents M →
    (padTail s.buf s.bufcnt.toNat s.len.toNat).length = (if s.bufcnt.toNat ≤ 55 then 1 else 2) ∧
    M.take (M.length - s.bufcnt.toNat) ++ tailBytes s.buf s.bufcnt.toNat s.len.toNat = pad M ∧
    blocks (M.take (M.length - s.bufcnt.toNat)) ++ padTail s.buf s.bufcnt.toNat s.len.toNat = blocks (pad M)

/-- R190, R191: the digest is 32 bytes, byte 4i + j being H[i][31 − 8j : 24 − 8j], and DIGESTi = be32(D, 4i) = H[i]. -/
def Obligations.SerializeLayout : Prop :=
  ∀ H : HashState, (serialize H).length = 32 ∧
    ∀ i (hi : i < 8), be32 (serialize H) (4 * i) = H[i] ∧
      ∀ j, j < 4 → (byteAt (serialize H) (4 * i + j)).toNat = H[i].toNat / 256 ^ (3 - j) % 256

/-- Absorbing one byte (41_block_buffer.md): short of a full block it is stored at BUF[BUFCNT] and counted; completing one it has
BUF[0..64) compressed into H and BUFCNT ← 0; LEN, DATA and the flags are not touched. That a byte of BUF past the stored one keeps
its value is the model's choice, since the spec leaves those bytes unspecified (assumption log 4). -/
def Obligations.AbsorbByte : Prop :=
  ∀ (s : State) (x : Byte),
    (s.bufcnt ≠ 63 → s.absorb x = { s with
      buf := s.buf.set s.bufcnt.toNat x (by have := s.bufcnt.isLt; omega), bufcnt := s.bufcnt + 1 }) ∧
    (s.bufcnt = 63 →
      (s.absorb x).h = compress s.h (s.buf.set 63 x) ∧ (s.absorb x).bufcnt = 0 ∧
      (s.absorb x) = { s with
        h := (s.absorb x).h, bufcnt := 0, buf := (s.absorb x).buf, work := (s.absorb x).work, w := (s.absorb x).w,
        round := (s.absorb x).round, freeCount := (s.absorb x).freeCount })

/-- R122: an UPDATE of n ≤ 4 bytes completes at most one block: none when BUFCNT + n < 64; otherwise exactly the block of
BUF[0..BUFCNT) and the first 64 − BUFCNT bytes of the chunk, and the rest of the chunk starts the next one. -/
def Obligations.UpdateCompletesAtMostOneBlock : Prop :=
  ∀ (s : State) (bytes : List Byte), bytes.length ≤ 4 →
    (s.bufcnt.toNat + bytes.length < 64 →
      (s.completeUpdate bytes).h = s.h ∧ (s.completeUpdate bytes).bufcnt.toNat = s.bufcnt.toNat + bytes.length) ∧
    (64 ≤ s.bufcnt.toNat + bytes.length →
      (s.completeUpdate bytes).h =
        compress s.h (blockAt (s.buf.toList.take s.bufcnt.toNat ++ bytes.take (64 - s.bufcnt.toNat)) 0) ∧
      (s.completeUpdate bytes).bufcnt.toNat = s.bufcnt.toNat + bytes.length - 64 ∧
      (s.completeUpdate bytes).buf.toList.take (s.bufcnt.toNat + bytes.length - 64) =
        bytes.drop (64 - s.bufcnt.toNat))

/-- R125, R127, R205: UPDATE completions, in whatever chunks, carry an engine that has absorbed M to one that has absorbed M
followed by the chunks' concatenation. -/
def Obligations.ChunksExtendMessage : Prop :=
  ∀ (chunks : List (List Byte)) (s : State) (M : List Byte), s.Represents M →
    M.length + chunks.flatten.length ≤ 2 ^ 61 - 1 →
    (chunks.foldl (fun t c => t.completeUpdate c) s).Represents (M ++ chunks.flatten)

/-- R127: what an engine that has absorbed M holds depends on M only, not on how it was split into chunks. -/
def Obligations.SplitInvariance : Prop :=
  ∀ (s t : State) (cs ds : List (List Byte)), s.Represents [] → t.Represents [] → cs.flatten = ds.flatten →
    cs.flatten.length ≤ 2 ^ 61 - 1 →
    let s' := cs.foldl (fun u c => u.completeUpdate c) s
    let t' := ds.foldl (fun u c => u.completeUpdate c) t
    s'.h = t'.h ∧ s'.len = t'.len ∧ s'.bufcnt = t'.bufcnt ∧
      s'.buf.toList.take s'.bufcnt.toNat = t'.buf.toList.take s'.bufcnt.toNat

/-- R193 at the engine: the completion of FINALIZE in an engine that has absorbed M leaves a digest that is SHA256(M), the
function defined from pad, blocks and compress alone. -/
def Obligations.FinalizeGivesSha256 : Prop :=
  ∀ (s : State) (M : List Byte), s.Represents M → s.phase = .busy .finalize →
    serialize s.complete.h = sha256 M ∧
    ∀ i : BitVec 3, s.complete.digestWord i = be32 (sha256 M) (4 * i.toNat)

/-- R193, R220: from any state, with no reset ahead, `init`, any pushes, `fin` and `rddigest` run to an end whatever the
latencies, Closed with a digest, and the eight words read spell SHA256 of the concatenation of what was pushed. -/
def Obligations.PushedMessageHashes : Prop :=
  ∀ (s : State) (pushes : List (BitVec 2 × Word)),
    (pushes.flatMap (fun p => latchBytes p.1 p.2)).length ≤ 2 ^ 61 - 1 → s.NoReset →
    s.queue = programAccesses s.engineBase
      ([.init] ++ pushes.flatMap (fun p => pushProgram p.1 p.2) ++ [.finalize] ++ rddigestProgram) →
    ∃ n t words, core.run n s = .next t ∧ t.Final ∧ t.closed = true ∧ t.dvalid = true ∧
      t.observation = s.observation ++ words ∧ words.length = 8 ∧
      digestOfReads words = sha256 (pushes.flatMap fun p => latchBytes p.1 p.2)

/-- R221: `hash "m"` ends with CLOSED = 1, DVALID = 1 and DIGEST0..7 = SHA256(m), for every message of at most 2^61 − 1
bytes and from every state. -/
def Obligations.HashProgramGivesSha256 : Prop :=
  ∀ (s : State) (m : List Byte), m.length ≤ 2 ^ 61 - 1 → s.NoReset →
    s.queue = programAccesses s.engineBase (hashProgram m) →
    ∃ n t words, core.run n s = .next t ∧ t.Final ∧ t.closed = true ∧ t.dvalid = true ∧
      t.observation = s.observation ++ words ∧ words.length = 8 ∧ digestOfReads words = sha256 m

/-- `poll` (30_encoding.md section 4): of the programs that repeat rd STATUS, the one whose reads end when BUSY reads 0, with bit 2
set in all reads but the last and clear in the last, is the one that repeats it as often as the pending command's latency has
steps left; every such program runs to its end, and after the poll BUSY = 0. The count is the model's, and so is the premise
that no reset event comes during the poll, which the spec leaves open (assumption logs 2 and 9). -/
def Obligations.PollEndsWhenIdle : Prop :=
  ∀ (s : State) (n : Nat) (rest : List Access), s.NoReset →
    s.queue = programAccesses s.engineBase (pollProgram n) ++ rest →
    ∃ k t words, core.run k s = .next t ∧ t.queue = rest ∧ t.observation = s.observation ++ words ∧
      words.length = n + 1 ∧ (pollEnded words = true ↔ n = s.busyReads) ∧
      (pollEnded words = true → t.busy = false)
end

