-- ==== Sys2Proof/Laws/Decode.lean ====
section
/-! SUPPORT. The decoder and the encoder: the fields of a command word in arithmetic, which words are legal, and that the
key table's rows do not overlap. -/

namespace Sys2Proof

/-! ### The command word -/

theorem cmdOp_eq_iff (v : Word) (n : BitVec 4) : cmdOp v = n ↔ v.toNat % 16 = n.toNat := by
  rw [cmdOp, ← BitVec.toNat_inj, BitVec.extractLsb'_toNat, Nat.shiftRight_zero]

theorem cmdNbm1_eq_iff (v : Word) (n : BitVec 2) : cmdNbm1 v = n ↔ v.toNat / 16 % 4 = n.toNat := by
  rw [cmdNbm1, ← BitVec.toNat_inj, BitVec.extractLsb'_toNat, Nat.shiftRight_eq_div_pow]

theorem cmdRsvd_eq_zero_iff (v : Word) : cmdRsvd v = 0 ↔ v.toNat / 64 = 0 := by
  rw [cmdRsvd, ← BitVec.toNat_inj, BitVec.extractLsb'_toNat, Nat.shiftRight_eq_div_pow]
  have := v.isLt
  rw [show (0 : BitVec 26).toNat = 0 from rfl]
  omega

/-- R77's three grounds in arithmetic on the word. -/
theorem illegalCommand_iff (v : Word) : illegalCommand v = true ↔
    (¬(v.toNat % 16 = 1 ∨ v.toNat % 16 = 2 ∨ v.toNat % 16 = 3) ∨ v.toNat / 64 ≠ 0 ∨
      ((v.toNat % 16 = 1 ∨ v.toNat % 16 = 3) ∧ v.toNat / 16 % 4 ≠ 0)) := by
  have h1 := cmdOp_eq_iff v 1
  have h2 := cmdOp_eq_iff v 2
  have h3 := cmdOp_eq_iff v 3
  have hn := cmdNbm1_eq_iff v 0
  have hr := cmdRsvd_eq_zero_iff v
  simp only [illegalCommand, Bool.or_eq_true, Bool.and_eq_true, Bool.not_eq_true', Bool.or_eq_false_iff,
    beq_iff_eq, beq_eq_false_iff_ne, bne_iff_ne, ne_eq, h1, h2, h3, hn, hr]
  norm_num
  tauto

/-- R74's six legal words, as numbers. -/
theorem mem_legalCommandWords (v : Word) : v ∈ legalCommandWords ↔
    v.toNat = 1 ∨ v.toNat = 2 ∨ v.toNat = 18 ∨ v.toNat = 34 ∨ v.toNat = 50 ∨ v.toNat = 3 := by
  simp [legalCommandWords, ← BitVec.toNat_inj]

/-- R77 and R74 name the same words. -/
theorem illegalCommand_iff_not_mem (v : Word) : illegalCommand v = true ↔ v ∉ legalCommandWords := by
  rw [illegalCommand_iff, mem_legalCommandWords]
  omega

theorem illegalCommand_eq_false_iff (v : Word) : illegalCommand v = false ↔ v ∈ legalCommandWords := by
  rw [← Bool.not_eq_true, illegalCommand_iff_not_mem, not_not]

theorem wf_wrCmd_iff (v : Word) : (Instr.wrCmd v).wf = true ↔ illegalCommand v = true := by
  rw [illegalCommand_iff_not_mem]
  simp [Instr.wf]

/-- A legal word is one of the six. -/
theorem legal_cases {v : Word} (h : illegalCommand v = false) :
    v = 0x00000001 ∨ v = 0x00000002 ∨ v = 0x00000012 ∨ v = 0x00000022 ∨ v = 0x00000032 ∨ v = 0x00000003 := by
  rw [illegalCommand_eq_false_iff] at h
  simpa [legalCommandWords] using h

theorem decodeCommand_illegal {v : Word} (h : illegalCommand v = true) : decodeCommand v = .wrCmd v := by
  simp [decodeCommand, h]

/-- A command word and the data its instruction encodes to are the same word. -/
theorem encodeData_decodeCommand (v : Word) : encodeData (decodeCommand v) = some v := by
  by_cases h : illegalCommand v = true
  · rw [decodeCommand_illegal h]; rfl
  · rw [Bool.not_eq_true] at h
    obtain rfl | rfl | rfl | rfl | rfl | rfl := legal_cases h <;> decide

theorem encodeOffset_decodeCommand (v : Word) : encodeOffset (decodeCommand v) = 0 := by
  unfold decodeCommand
  split_ifs <;> rfl

theorem wf_decodeCommand (v : Word) : (decodeCommand v).wf = true := by
  by_cases h : illegalCommand v = true
  · rw [decodeCommand_illegal h, wf_wrCmd_iff, h]
  · rw [Bool.not_eq_true] at h
    obtain rfl | rfl | rfl | rfl | rfl | rfl := legal_cases h <;> decide

/-! ### The window -/

theorem outsideWindow_iff (base : Nat) (a : Access) : outsideWindow base a = true ↔
    base + 64 ≤ accessAddr a ∨ (accessAddr a < base ∧ accessAddr a + accessWidth a ≤ base) := by
  simp [outsideWindow]

theorem straddlesWindow_iff (base : Nat) (a : Access) : straddlesWindow base a = true ↔
    outsideWindow base a = false ∧ (accessAddr a < base ∨ base + 64 < accessAddr a + accessWidth a) := by
  simp [straddlesWindow]

/-- What an accepted access is: inside the window, 4 bytes wide, and its key decodes (R51, R56, R219). -/
theorem decode_ok_cases {base : Nat} {a : Access} {i : Instr} (h : decode base a = .ok i) :
    base ≤ accessAddr a ∧ accessAddr a + 4 ≤ base + 64 ∧ accessWidth a = 4 ∧
      decodeKey (accessKey (accessDir a) (accessAddr a - base)) (accessData a) = .ok i := by
  unfold decode at h
  split_ifs at h with h1 h2 h3
  have h3' : accessWidth a = 4 := by simpa using h3
  rw [Bool.not_eq_true] at h2
  have h2' := mt (straddlesWindow_iff base a).2 (by simp [h2])
  rw [outsideWindow_iff] at h1
  rw [← Bool.not_eq_true, outsideWindow_iff] at h2'
  exact ⟨by omega, by omega, h3', h⟩

/-- An access inside the window and 4 bytes wide is decoded by its key alone. -/
theorem decode_in_window {base : Nat} {a : Access} (h1 : base ≤ accessAddr a) (h2 : accessAddr a + 4 ≤ base + 64)
    (h3 : accessWidth a = 4) :
    decode base a = decodeKey (accessKey (accessDir a) (accessAddr a - base)) (accessData a) := by
  have ho : ¬outsideWindow base a = true := by rw [outsideWindow_iff]; omega
  have hs : ¬straddlesWindow base a = true := by rw [straddlesWindow_iff]; omega
  rw [decode, if_neg ho, if_neg hs, if_neg (by simpa using h3)]

/-- A transaction's own access decodes by its own key, at every base. -/
theorem decode_encode_key (base : Nat) (i : Instr) (h : encodeOffset i < 64) (h4 : encodeOffset i % 4 = 0) :
    decode base (encode base i) =
      decodeKey (accessKey (if (encodeData i).isSome then .write else .read) (encodeOffset i))
        ((encodeData i).getD 0) := by
  unfold encode
  cases encodeData i
  all_goals
    rw [decode_in_window] <;> simp only [accessAddr, accessWidth, accessDir, accessData] <;>
      first
        | rfl
        | omega
        | (rw [Nat.add_sub_cancel_left]; rfl)

/-! ### The access key -/

theorem accessKey_align (d : Dir) (off : Nat) : (accessKey d off).toNat % 4 = off % 4 := by
  cases d
  all_goals
    simp only [accessKey, BitVec.toNat_ofNat]
    omega

/-- R72's partition: each aligned key has one row, no other key has one. -/
theorem keyRows_partition : ∀ key : BitVec 7,
    (keyRows.filter (keyMatches key)).length = if key.toNat % 4 = 0 then 1 else 0 := by
  decide +kernel

theorem lookupKey_eq_none_iff : ∀ key : BitVec 7, lookupKey key = none ↔ key.toNat % 4 ≠ 0 := by
  decide +kernel

end Sys2Proof
end

