-- ==== Sys2Proof/Laws/State.lean ====
section
/-! SUPPORT. What each shared operation leaves in each field of the state, one lemma a field, true by rfl, so that no later
proof unfolds a record update. -/

namespace Sys2Proof.Machine

/-! ### retire: ending a transaction -/

@[simp] theorem retire_h (s : State) : s.retire.h = s.h := rfl
@[simp] theorem retire_work (s : State) : s.retire.work = s.work := rfl
@[simp] theorem retire_w (s : State) : s.retire.w = s.w := rfl
@[simp] theorem retire_buf (s : State) : s.retire.buf = s.buf := rfl
@[simp] theorem retire_bufcnt (s : State) : s.retire.bufcnt = s.bufcnt := rfl
@[simp] theorem retire_len (s : State) : s.retire.len = s.len := rfl
@[simp] theorem retire_phase (s : State) : s.retire.phase = s.phase := rfl
@[simp] theorem retire_round (s : State) : s.retire.round = s.round := rfl
@[simp] theorem retire_data (s : State) : s.retire.data = s.data := rfl
@[simp] theorem retire_closed (s : State) : s.retire.closed = s.closed := rfl
@[simp] theorem retire_dvalid (s : State) : s.retire.dvalid = s.dvalid := rfl
@[simp] theorem retire_errState (s : State) : s.retire.errState = s.errState := rfl
@[simp] theorem retire_errLength (s : State) : s.retire.errLength = s.errLength := rfl
@[simp] theorem retire_errCmd (s : State) : s.retire.errCmd = s.errCmd := rfl
@[simp] theorem retire_baseBlock (s : State) : s.retire.baseBlock = s.baseBlock := rfl
@[simp] theorem retire_latencyLeft (s : State) : s.retire.latencyLeft = s.latencyLeft := rfl
@[simp] theorem retire_freeCount (s : State) : s.retire.freeCount = s.freeCount := rfl
@[simp] theorem retire_queue (s : State) : s.retire.queue = s.queue.tail := rfl
@[simp] theorem retire_results (s : State) : s.retire.results = s.results := rfl
@[simp] theorem retire_resetLine (s : State) : s.retire.resetLine = s.resetLine := rfl

/-! ### reply: returning a word to the host -/

@[simp] theorem reply_h (s : State) (v : Word) : (s.reply v).h = s.h := rfl
@[simp] theorem reply_work (s : State) (v : Word) : (s.reply v).work = s.work := rfl
@[simp] theorem reply_w (s : State) (v : Word) : (s.reply v).w = s.w := rfl
@[simp] theorem reply_buf (s : State) (v : Word) : (s.reply v).buf = s.buf := rfl
@[simp] theorem reply_bufcnt (s : State) (v : Word) : (s.reply v).bufcnt = s.bufcnt := rfl
@[simp] theorem reply_len (s : State) (v : Word) : (s.reply v).len = s.len := rfl
@[simp] theorem reply_phase (s : State) (v : Word) : (s.reply v).phase = s.phase := rfl
@[simp] theorem reply_round (s : State) (v : Word) : (s.reply v).round = s.round := rfl
@[simp] theorem reply_data (s : State) (v : Word) : (s.reply v).data = s.data := rfl
@[simp] theorem reply_closed (s : State) (v : Word) : (s.reply v).closed = s.closed := rfl
@[simp] theorem reply_dvalid (s : State) (v : Word) : (s.reply v).dvalid = s.dvalid := rfl
@[simp] theorem reply_errState (s : State) (v : Word) : (s.reply v).errState = s.errState := rfl
@[simp] theorem reply_errLength (s : State) (v : Word) : (s.reply v).errLength = s.errLength := rfl
@[simp] theorem reply_errCmd (s : State) (v : Word) : (s.reply v).errCmd = s.errCmd := rfl
@[simp] theorem reply_baseBlock (s : State) (v : Word) : (s.reply v).baseBlock = s.baseBlock := rfl
@[simp] theorem reply_latencyLeft (s : State) (v : Word) : (s.reply v).latencyLeft = s.latencyLeft := rfl
@[simp] theorem reply_freeCount (s : State) (v : Word) : (s.reply v).freeCount = s.freeCount := rfl
@[simp] theorem reply_queue (s : State) (v : Word) : (s.reply v).queue = s.queue.tail := rfl
@[simp] theorem reply_results (s : State) (v : Word) : (s.reply v).results = s.results ++ [v] := rfl
@[simp] theorem reply_resetLine (s : State) (v : Word) : (s.reply v).resetLine = s.resetLine := rfl

/-! ### accept: accepting a command -/

@[simp] theorem accept_h (s : State) (p : Pending) : (s.accept p).h = s.h := rfl
@[simp] theorem accept_work (s : State) (p : Pending) : (s.accept p).work = s.work := rfl
@[simp] theorem accept_w (s : State) (p : Pending) : (s.accept p).w = s.w := rfl
@[simp] theorem accept_buf (s : State) (p : Pending) : (s.accept p).buf = s.buf := rfl
@[simp] theorem accept_bufcnt (s : State) (p : Pending) : (s.accept p).bufcnt = s.bufcnt := rfl
@[simp] theorem accept_len (s : State) (p : Pending) : (s.accept p).len = s.len := rfl
@[simp] theorem accept_phase (s : State) (p : Pending) : (s.accept p).phase = .busy p := rfl
@[simp] theorem accept_round (s : State) (p : Pending) : (s.accept p).round = s.round := rfl
@[simp] theorem accept_data (s : State) (p : Pending) : (s.accept p).data = s.data := rfl
@[simp] theorem accept_closed (s : State) (p : Pending) : (s.accept p).closed = s.closed := rfl
@[simp] theorem accept_dvalid (s : State) (p : Pending) : (s.accept p).dvalid = s.dvalid := rfl
@[simp] theorem accept_errState (s : State) (p : Pending) : (s.accept p).errState = s.errState := rfl
@[simp] theorem accept_errLength (s : State) (p : Pending) : (s.accept p).errLength = s.errLength := rfl
@[simp] theorem accept_errCmd (s : State) (p : Pending) : (s.accept p).errCmd = s.errCmd := rfl
@[simp] theorem accept_baseBlock (s : State) (p : Pending) : (s.accept p).baseBlock = s.baseBlock := rfl
@[simp] theorem accept_latencyLeft (s : State) (p : Pending) : (s.accept p).latencyLeft = Config.latency s.freeCount := rfl
@[simp] theorem accept_freeCount (s : State) (p : Pending) : (s.accept p).freeCount = s.freeCount + 1 := rfl
@[simp] theorem accept_queue (s : State) (p : Pending) : (s.accept p).queue = s.queue := rfl
@[simp] theorem accept_results (s : State) (p : Pending) : (s.accept p).results = s.results := rfl
@[simp] theorem accept_resetLine (s : State) (p : Pending) : (s.accept p).resetLine = s.resetLine := rfl

/-! ### forgetWork: free values in a..h, W and t -/

@[simp] theorem forgetWork_h (s : State) : s.forgetWork.h = s.h := rfl
@[simp] theorem forgetWork_work (s : State) : s.forgetWork.work = Config.freeWorking s.freeCount := rfl
@[simp] theorem forgetWork_w (s : State) : s.forgetWork.w = Config.freeSchedule s.freeCount := rfl
@[simp] theorem forgetWork_buf (s : State) : s.forgetWork.buf = s.buf := rfl
@[simp] theorem forgetWork_bufcnt (s : State) : s.forgetWork.bufcnt = s.bufcnt := rfl
@[simp] theorem forgetWork_len (s : State) : s.forgetWork.len = s.len := rfl
@[simp] theorem forgetWork_phase (s : State) : s.forgetWork.phase = s.phase := rfl
@[simp] theorem forgetWork_round (s : State) : s.forgetWork.round = Config.freeRound s.freeCount := rfl
@[simp] theorem forgetWork_data (s : State) : s.forgetWork.data = s.data := rfl
@[simp] theorem forgetWork_closed (s : State) : s.forgetWork.closed = s.closed := rfl
@[simp] theorem forgetWork_dvalid (s : State) : s.forgetWork.dvalid = s.dvalid := rfl
@[simp] theorem forgetWork_errState (s : State) : s.forgetWork.errState = s.errState := rfl
@[simp] theorem forgetWork_errLength (s : State) : s.forgetWork.errLength = s.errLength := rfl
@[simp] theorem forgetWork_errCmd (s : State) : s.forgetWork.errCmd = s.errCmd := rfl
@[simp] theorem forgetWork_baseBlock (s : State) : s.forgetWork.baseBlock = s.baseBlock := rfl
@[simp] theorem forgetWork_latencyLeft (s : State) : s.forgetWork.latencyLeft = s.latencyLeft := rfl
@[simp] theorem forgetWork_freeCount (s : State) : s.forgetWork.freeCount = s.freeCount + 1 := rfl
@[simp] theorem forgetWork_queue (s : State) : s.forgetWork.queue = s.queue := rfl
@[simp] theorem forgetWork_results (s : State) : s.forgetWork.results = s.results := rfl
@[simp] theorem forgetWork_resetLine (s : State) : s.forgetWork.resetLine = s.resetLine := rfl

/-! ### forgetBuf: free values in BUF -/

@[simp] theorem forgetBuf_h (s : State) : s.forgetBuf.h = s.h := rfl
@[simp] theorem forgetBuf_work (s : State) : s.forgetBuf.work = s.work := rfl
@[simp] theorem forgetBuf_w (s : State) : s.forgetBuf.w = s.w := rfl
@[simp] theorem forgetBuf_buf (s : State) : s.forgetBuf.buf = Config.freeBuf s.freeCount := rfl
@[simp] theorem forgetBuf_bufcnt (s : State) : s.forgetBuf.bufcnt = s.bufcnt := rfl
@[simp] theorem forgetBuf_len (s : State) : s.forgetBuf.len = s.len := rfl
@[simp] theorem forgetBuf_phase (s : State) : s.forgetBuf.phase = s.phase := rfl
@[simp] theorem forgetBuf_round (s : State) : s.forgetBuf.round = s.round := rfl
@[simp] theorem forgetBuf_data (s : State) : s.forgetBuf.data = s.data := rfl
@[simp] theorem forgetBuf_closed (s : State) : s.forgetBuf.closed = s.closed := rfl
@[simp] theorem forgetBuf_dvalid (s : State) : s.forgetBuf.dvalid = s.dvalid := rfl
@[simp] theorem forgetBuf_errState (s : State) : s.forgetBuf.errState = s.errState := rfl
@[simp] theorem forgetBuf_errLength (s : State) : s.forgetBuf.errLength = s.errLength := rfl
@[simp] theorem forgetBuf_errCmd (s : State) : s.forgetBuf.errCmd = s.errCmd := rfl
@[simp] theorem forgetBuf_baseBlock (s : State) : s.forgetBuf.baseBlock = s.baseBlock := rfl
@[simp] theorem forgetBuf_latencyLeft (s : State) : s.forgetBuf.latencyLeft = s.latencyLeft := rfl
@[simp] theorem forgetBuf_freeCount (s : State) : s.forgetBuf.freeCount = s.freeCount + 1 := rfl
@[simp] theorem forgetBuf_queue (s : State) : s.forgetBuf.queue = s.queue := rfl
@[simp] theorem forgetBuf_results (s : State) : s.forgetBuf.results = s.results := rfl
@[simp] theorem forgetBuf_resetLine (s : State) : s.forgetBuf.resetLine = s.resetLine := rfl

/-! ### forgetBufcnt: a free value in BUFCNT -/

@[simp] theorem forgetBufcnt_h (s : State) : s.forgetBufcnt.h = s.h := rfl
@[simp] theorem forgetBufcnt_work (s : State) : s.forgetBufcnt.work = s.work := rfl
@[simp] theorem forgetBufcnt_w (s : State) : s.forgetBufcnt.w = s.w := rfl
@[simp] theorem forgetBufcnt_buf (s : State) : s.forgetBufcnt.buf = s.buf := rfl
@[simp] theorem forgetBufcnt_bufcnt (s : State) : s.forgetBufcnt.bufcnt = Config.freeBufcnt s.freeCount := rfl
@[simp] theorem forgetBufcnt_len (s : State) : s.forgetBufcnt.len = s.len := rfl
@[simp] theorem forgetBufcnt_phase (s : State) : s.forgetBufcnt.phase = s.phase := rfl
@[simp] theorem forgetBufcnt_round (s : State) : s.forgetBufcnt.round = s.round := rfl
@[simp] theorem forgetBufcnt_data (s : State) : s.forgetBufcnt.data = s.data := rfl
@[simp] theorem forgetBufcnt_closed (s : State) : s.forgetBufcnt.closed = s.closed := rfl
@[simp] theorem forgetBufcnt_dvalid (s : State) : s.forgetBufcnt.dvalid = s.dvalid := rfl
@[simp] theorem forgetBufcnt_errState (s : State) : s.forgetBufcnt.errState = s.errState := rfl
@[simp] theorem forgetBufcnt_errLength (s : State) : s.forgetBufcnt.errLength = s.errLength := rfl
@[simp] theorem forgetBufcnt_errCmd (s : State) : s.forgetBufcnt.errCmd = s.errCmd := rfl
@[simp] theorem forgetBufcnt_baseBlock (s : State) : s.forgetBufcnt.baseBlock = s.baseBlock := rfl
@[simp] theorem forgetBufcnt_latencyLeft (s : State) : s.forgetBufcnt.latencyLeft = s.latencyLeft := rfl
@[simp] theorem forgetBufcnt_freeCount (s : State) : s.forgetBufcnt.freeCount = s.freeCount + 1 := rfl
@[simp] theorem forgetBufcnt_queue (s : State) : s.forgetBufcnt.queue = s.queue := rfl
@[simp] theorem forgetBufcnt_results (s : State) : s.forgetBufcnt.results = s.results := rfl
@[simp] theorem forgetBufcnt_resetLine (s : State) : s.forgetBufcnt.resetLine = s.resetLine := rfl

/-! ### openFlags: INIT's flags -/

@[simp] theorem openFlags_h (s : State) : s.openFlags.h = s.h := rfl
@[simp] theorem openFlags_work (s : State) : s.openFlags.work = s.work := rfl
@[simp] theorem openFlags_w (s : State) : s.openFlags.w = s.w := rfl
@[simp] theorem openFlags_buf (s : State) : s.openFlags.buf = s.buf := rfl
@[simp] theorem openFlags_bufcnt (s : State) : s.openFlags.bufcnt = s.bufcnt := rfl
@[simp] theorem openFlags_len (s : State) : s.openFlags.len = s.len := rfl
@[simp] theorem openFlags_phase (s : State) : s.openFlags.phase = s.phase := rfl
@[simp] theorem openFlags_round (s : State) : s.openFlags.round = s.round := rfl
@[simp] theorem openFlags_data (s : State) : s.openFlags.data = s.data := rfl
@[simp] theorem openFlags_closed (s : State) : s.openFlags.closed = false := rfl
@[simp] theorem openFlags_dvalid (s : State) : s.openFlags.dvalid = false := rfl
@[simp] theorem openFlags_errState (s : State) : s.openFlags.errState = false := rfl
@[simp] theorem openFlags_errLength (s : State) : s.openFlags.errLength = false := rfl
@[simp] theorem openFlags_errCmd (s : State) : s.openFlags.errCmd = false := rfl
@[simp] theorem openFlags_baseBlock (s : State) : s.openFlags.baseBlock = s.baseBlock := rfl
@[simp] theorem openFlags_latencyLeft (s : State) : s.openFlags.latencyLeft = s.latencyLeft := rfl
@[simp] theorem openFlags_freeCount (s : State) : s.openFlags.freeCount = s.freeCount := rfl
@[simp] theorem openFlags_queue (s : State) : s.openFlags.queue = s.queue := rfl
@[simp] theorem openFlags_results (s : State) : s.openFlags.results = s.results := rfl
@[simp] theorem openFlags_resetLine (s : State) : s.openFlags.resetLine = s.resetLine := rfl

/-! ### closeFlags: FINALIZE's flags -/

@[simp] theorem closeFlags_h (s : State) : s.closeFlags.h = s.h := rfl
@[simp] theorem closeFlags_work (s : State) : s.closeFlags.work = s.work := rfl
@[simp] theorem closeFlags_w (s : State) : s.closeFlags.w = s.w := rfl
@[simp] theorem closeFlags_buf (s : State) : s.closeFlags.buf = s.buf := rfl
@[simp] theorem closeFlags_bufcnt (s : State) : s.closeFlags.bufcnt = s.bufcnt := rfl
@[simp] theorem closeFlags_len (s : State) : s.closeFlags.len = s.len := rfl
@[simp] theorem closeFlags_phase (s : State) : s.closeFlags.phase = s.phase := rfl
@[simp] theorem closeFlags_round (s : State) : s.closeFlags.round = s.round := rfl
@[simp] theorem closeFlags_data (s : State) : s.closeFlags.data = s.data := rfl
@[simp] theorem closeFlags_closed (s : State) : s.closeFlags.closed = true := rfl
@[simp] theorem closeFlags_dvalid (s : State) : s.closeFlags.dvalid = true := rfl
@[simp] theorem closeFlags_errState (s : State) : s.closeFlags.errState = s.errState := rfl
@[simp] theorem closeFlags_errLength (s : State) : s.closeFlags.errLength = s.errLength := rfl
@[simp] theorem closeFlags_errCmd (s : State) : s.closeFlags.errCmd = s.errCmd := rfl
@[simp] theorem closeFlags_baseBlock (s : State) : s.closeFlags.baseBlock = s.baseBlock := rfl
@[simp] theorem closeFlags_latencyLeft (s : State) : s.closeFlags.latencyLeft = s.latencyLeft := rfl
@[simp] theorem closeFlags_freeCount (s : State) : s.closeFlags.freeCount = s.freeCount := rfl
@[simp] theorem closeFlags_queue (s : State) : s.closeFlags.queue = s.queue := rfl
@[simp] theorem closeFlags_results (s : State) : s.closeFlags.results = s.results := rfl
@[simp] theorem closeFlags_resetLine (s : State) : s.closeFlags.resetLine = s.resetLine := rfl

/-! ### storeByte: storing a byte in BUF -/

@[simp] theorem storeByte_h (s : State) (x : Byte) : (s.storeByte x).h = s.h := rfl
@[simp] theorem storeByte_work (s : State) (x : Byte) : (s.storeByte x).work = s.work := rfl
@[simp] theorem storeByte_w (s : State) (x : Byte) : (s.storeByte x).w = s.w := rfl
@[simp] theorem storeByte_buf (s : State) (x : Byte) : (s.storeByte x).buf = s.buf.set s.bufcnt.toNat x (by have := s.bufcnt.isLt; omega) := rfl
@[simp] theorem storeByte_bufcnt (s : State) (x : Byte) : (s.storeByte x).bufcnt = s.bufcnt := rfl
@[simp] theorem storeByte_len (s : State) (x : Byte) : (s.storeByte x).len = s.len := rfl
@[simp] theorem storeByte_phase (s : State) (x : Byte) : (s.storeByte x).phase = s.phase := rfl
@[simp] theorem storeByte_round (s : State) (x : Byte) : (s.storeByte x).round = s.round := rfl
@[simp] theorem storeByte_data (s : State) (x : Byte) : (s.storeByte x).data = s.data := rfl
@[simp] theorem storeByte_closed (s : State) (x : Byte) : (s.storeByte x).closed = s.closed := rfl
@[simp] theorem storeByte_dvalid (s : State) (x : Byte) : (s.storeByte x).dvalid = s.dvalid := rfl
@[simp] theorem storeByte_errState (s : State) (x : Byte) : (s.storeByte x).errState = s.errState := rfl
@[simp] theorem storeByte_errLength (s : State) (x : Byte) : (s.storeByte x).errLength = s.errLength := rfl
@[simp] theorem storeByte_errCmd (s : State) (x : Byte) : (s.storeByte x).errCmd = s.errCmd := rfl
@[simp] theorem storeByte_baseBlock (s : State) (x : Byte) : (s.storeByte x).baseBlock = s.baseBlock := rfl
@[simp] theorem storeByte_latencyLeft (s : State) (x : Byte) : (s.storeByte x).latencyLeft = s.latencyLeft := rfl
@[simp] theorem storeByte_freeCount (s : State) (x : Byte) : (s.storeByte x).freeCount = s.freeCount := rfl
@[simp] theorem storeByte_queue (s : State) (x : Byte) : (s.storeByte x).queue = s.queue := rfl
@[simp] theorem storeByte_results (s : State) (x : Byte) : (s.storeByte x).results = s.results := rfl
@[simp] theorem storeByte_resetLine (s : State) (x : Byte) : (s.storeByte x).resetLine = s.resetLine := rfl

/-! ### compressBlock: compressing a block -/

@[simp] theorem compressBlock_h (s : State) (B : Block) : (s.compressBlock B).h = compress s.h B := rfl
@[simp] theorem compressBlock_work (s : State) (B : Block) : (s.compressBlock B).work = Config.freeWorking s.freeCount := rfl
@[simp] theorem compressBlock_w (s : State) (B : Block) : (s.compressBlock B).w = Config.freeSchedule s.freeCount := rfl
@[simp] theorem compressBlock_buf (s : State) (B : Block) : (s.compressBlock B).buf = s.buf := rfl
@[simp] theorem compressBlock_bufcnt (s : State) (B : Block) : (s.compressBlock B).bufcnt = s.bufcnt := rfl
@[simp] theorem compressBlock_len (s : State) (B : Block) : (s.compressBlock B).len = s.len := rfl
@[simp] theorem compressBlock_phase (s : State) (B : Block) : (s.compressBlock B).phase = s.phase := rfl
@[simp] theorem compressBlock_round (s : State) (B : Block) : (s.compressBlock B).round = Config.freeRound s.freeCount := rfl
@[simp] theorem compressBlock_data (s : State) (B : Block) : (s.compressBlock B).data = s.data := rfl
@[simp] theorem compressBlock_closed (s : State) (B : Block) : (s.compressBlock B).closed = s.closed := rfl
@[simp] theorem compressBlock_dvalid (s : State) (B : Block) : (s.compressBlock B).dvalid = s.dvalid := rfl
@[simp] theorem compressBlock_errState (s : State) (B : Block) : (s.compressBlock B).errState = s.errState := rfl
@[simp] theorem compressBlock_errLength (s : State) (B : Block) : (s.compressBlock B).errLength = s.errLength := rfl
@[simp] theorem compressBlock_errCmd (s : State) (B : Block) : (s.compressBlock B).errCmd = s.errCmd := rfl
@[simp] theorem compressBlock_baseBlock (s : State) (B : Block) : (s.compressBlock B).baseBlock = s.baseBlock := rfl
@[simp] theorem compressBlock_latencyLeft (s : State) (B : Block) : (s.compressBlock B).latencyLeft = s.latencyLeft := rfl
@[simp] theorem compressBlock_freeCount (s : State) (B : Block) : (s.compressBlock B).freeCount = s.freeCount + 1 := rfl
@[simp] theorem compressBlock_queue (s : State) (B : Block) : (s.compressBlock B).queue = s.queue := rfl
@[simp] theorem compressBlock_results (s : State) (B : Block) : (s.compressBlock B).results = s.results := rfl
@[simp] theorem compressBlock_resetLine (s : State) (B : Block) : (s.compressBlock B).resetLine = s.resetLine := rfl

/-! ### completeInit: the completion of INIT -/

@[simp] theorem completeInit_h (s : State) : s.completeInit.h = h0Rom := rfl
@[simp] theorem completeInit_work (s : State) : s.completeInit.work = s.work := rfl
@[simp] theorem completeInit_w (s : State) : s.completeInit.w = s.w := rfl
@[simp] theorem completeInit_buf (s : State) : s.completeInit.buf = Config.freeBuf s.freeCount := rfl
@[simp] theorem completeInit_bufcnt (s : State) : s.completeInit.bufcnt = 0 := rfl
@[simp] theorem completeInit_len (s : State) : s.completeInit.len = 0 := rfl
@[simp] theorem completeInit_phase (s : State) : s.completeInit.phase = s.phase := rfl
@[simp] theorem completeInit_round (s : State) : s.completeInit.round = s.round := rfl
@[simp] theorem completeInit_data (s : State) : s.completeInit.data = s.data := rfl
@[simp] theorem completeInit_closed (s : State) : s.completeInit.closed = false := rfl
@[simp] theorem completeInit_dvalid (s : State) : s.completeInit.dvalid = false := rfl
@[simp] theorem completeInit_errState (s : State) : s.completeInit.errState = false := rfl
@[simp] theorem completeInit_errLength (s : State) : s.completeInit.errLength = false := rfl
@[simp] theorem completeInit_errCmd (s : State) : s.completeInit.errCmd = false := rfl
@[simp] theorem completeInit_baseBlock (s : State) : s.completeInit.baseBlock = s.baseBlock := rfl
@[simp] theorem completeInit_latencyLeft (s : State) : s.completeInit.latencyLeft = s.latencyLeft := rfl
@[simp] theorem completeInit_freeCount (s : State) : s.completeInit.freeCount = s.freeCount + 1 := rfl
@[simp] theorem completeInit_queue (s : State) : s.completeInit.queue = s.queue := rfl
@[simp] theorem completeInit_results (s : State) : s.completeInit.results = s.results := rfl
@[simp] theorem completeInit_resetLine (s : State) : s.completeInit.resetLine = s.resetLine := rfl

/-! ### tick: one step of the world outside -/

@[simp] theorem tick_h (s : State) : s.tick.h = s.h := rfl
@[simp] theorem tick_work (s : State) : s.tick.work = s.work := rfl
@[simp] theorem tick_w (s : State) : s.tick.w = s.w := rfl
@[simp] theorem tick_buf (s : State) : s.tick.buf = s.buf := rfl
@[simp] theorem tick_bufcnt (s : State) : s.tick.bufcnt = s.bufcnt := rfl
@[simp] theorem tick_len (s : State) : s.tick.len = s.len := rfl
@[simp] theorem tick_phase (s : State) : s.tick.phase = s.phase := rfl
@[simp] theorem tick_round (s : State) : s.tick.round = s.round := rfl
@[simp] theorem tick_data (s : State) : s.tick.data = s.data := rfl
@[simp] theorem tick_closed (s : State) : s.tick.closed = s.closed := rfl
@[simp] theorem tick_dvalid (s : State) : s.tick.dvalid = s.dvalid := rfl
@[simp] theorem tick_errState (s : State) : s.tick.errState = s.errState := rfl
@[simp] theorem tick_errLength (s : State) : s.tick.errLength = s.errLength := rfl
@[simp] theorem tick_errCmd (s : State) : s.tick.errCmd = s.errCmd := rfl
@[simp] theorem tick_baseBlock (s : State) : s.tick.baseBlock = s.baseBlock := rfl
@[simp] theorem tick_latencyLeft (s : State) : s.tick.latencyLeft = s.latencyLeft - 1 := rfl
@[simp] theorem tick_freeCount (s : State) : s.tick.freeCount = s.freeCount := rfl
@[simp] theorem tick_queue (s : State) : s.tick.queue = s.queue := rfl
@[simp] theorem tick_results (s : State) : s.tick.results = s.results := rfl
@[simp] theorem tick_resetLine (s : State) : s.tick.resetLine = s.resetLine.tail := rfl

/-! ### takeReset: the reset event -/

@[simp] theorem takeReset_h (s : State) : s.takeReset.h = h0Rom := rfl
@[simp] theorem takeReset_work (s : State) : s.takeReset.work = Config.freeWorking s.freeCount := rfl
@[simp] theorem takeReset_w (s : State) : s.takeReset.w = Config.freeSchedule s.freeCount := rfl
@[simp] theorem takeReset_buf (s : State) : s.takeReset.buf = Config.freeBuf (s.freeCount + 1) := rfl
@[simp] theorem takeReset_bufcnt (s : State) : s.takeReset.bufcnt = 0 := rfl
@[simp] theorem takeReset_len (s : State) : s.takeReset.len = 0 := rfl
@[simp] theorem takeReset_phase (s : State) : s.takeReset.phase = .idle := rfl
@[simp] theorem takeReset_round (s : State) : s.takeReset.round = Config.freeRound s.freeCount := rfl
@[simp] theorem takeReset_data (s : State) : s.takeReset.data = 0 := rfl
@[simp] theorem takeReset_closed (s : State) : s.takeReset.closed = false := rfl
@[simp] theorem takeReset_dvalid (s : State) : s.takeReset.dvalid = false := rfl
@[simp] theorem takeReset_errState (s : State) : s.takeReset.errState = false := rfl
@[simp] theorem takeReset_errLength (s : State) : s.takeReset.errLength = false := rfl
@[simp] theorem takeReset_errCmd (s : State) : s.takeReset.errCmd = false := rfl
@[simp] theorem takeReset_baseBlock (s : State) : s.takeReset.baseBlock = s.baseBlock := rfl
@[simp] theorem takeReset_latencyLeft (s : State) : s.takeReset.latencyLeft = 0 := rfl
@[simp] theorem takeReset_freeCount (s : State) : s.takeReset.freeCount = s.freeCount + 1 + 1 := rfl
@[simp] theorem takeReset_queue (s : State) : s.takeReset.queue = s.queue := rfl
@[simp] theorem takeReset_results (s : State) : s.takeReset.results = s.results := rfl
@[simp] theorem takeReset_resetLine (s : State) : s.takeReset.resetLine = s.resetLine := rfl

/-! ### raise: an error bit set and the command rejected -/

@[simp] theorem raise_h (s : State) (e : EngineError) : (s.raise e).h = s.h := by cases e <;> rfl
@[simp] theorem raise_work (s : State) (e : EngineError) : (s.raise e).work = s.work := by cases e <;> rfl
@[simp] theorem raise_w (s : State) (e : EngineError) : (s.raise e).w = s.w := by cases e <;> rfl
@[simp] theorem raise_buf (s : State) (e : EngineError) : (s.raise e).buf = s.buf := by cases e <;> rfl
@[simp] theorem raise_bufcnt (s : State) (e : EngineError) : (s.raise e).bufcnt = s.bufcnt := by cases e <;> rfl
@[simp] theorem raise_len (s : State) (e : EngineError) : (s.raise e).len = s.len := by cases e <;> rfl
@[simp] theorem raise_phase (s : State) (e : EngineError) : (s.raise e).phase = s.phase := by cases e <;> rfl
@[simp] theorem raise_round (s : State) (e : EngineError) : (s.raise e).round = s.round := by cases e <;> rfl
@[simp] theorem raise_data (s : State) (e : EngineError) : (s.raise e).data = s.data := by cases e <;> rfl
@[simp] theorem raise_baseBlock (s : State) (e : EngineError) : (s.raise e).baseBlock = s.baseBlock := by cases e <;> rfl
@[simp] theorem raise_latencyLeft (s : State) (e : EngineError) : (s.raise e).latencyLeft = s.latencyLeft := by cases e <;> rfl
@[simp] theorem raise_freeCount (s : State) (e : EngineError) : (s.raise e).freeCount = s.freeCount := by cases e <;> rfl
@[simp] theorem raise_queue (s : State) (e : EngineError) : (s.raise e).queue = s.queue := by cases e <;> rfl
@[simp] theorem raise_results (s : State) (e : EngineError) : (s.raise e).results = s.results := by cases e <;> rfl
@[simp] theorem raise_resetLine (s : State) (e : EngineError) : (s.raise e).resetLine = s.resetLine := by cases e <;> rfl
@[simp] theorem raise_stateError_closed (s : State) : (s.raise .stateError).closed = s.closed := rfl
@[simp] theorem raise_stateError_dvalid (s : State) : (s.raise .stateError).dvalid = s.dvalid := rfl
@[simp] theorem raise_stateError_errState (s : State) : (s.raise .stateError).errState = true := rfl
@[simp] theorem raise_stateError_errLength (s : State) : (s.raise .stateError).errLength = s.errLength := rfl
@[simp] theorem raise_stateError_errCmd (s : State) : (s.raise .stateError).errCmd = s.errCmd := rfl
@[simp] theorem raise_lengthOverflow_closed (s : State) : (s.raise .lengthOverflow).closed = true := rfl
@[simp] theorem raise_lengthOverflow_dvalid (s : State) : (s.raise .lengthOverflow).dvalid = false := rfl
@[simp] theorem raise_lengthOverflow_errState (s : State) : (s.raise .lengthOverflow).errState = s.errState := rfl
@[simp] theorem raise_lengthOverflow_errLength (s : State) : (s.raise .lengthOverflow).errLength = true := rfl
@[simp] theorem raise_lengthOverflow_errCmd (s : State) : (s.raise .lengthOverflow).errCmd = s.errCmd := rfl
@[simp] theorem raise_illegalCommand_closed (s : State) : (s.raise .illegalCommand).closed = s.closed := rfl
@[simp] theorem raise_illegalCommand_dvalid (s : State) : (s.raise .illegalCommand).dvalid = s.dvalid := rfl
@[simp] theorem raise_illegalCommand_errState (s : State) : (s.raise .illegalCommand).errState = s.errState := rfl
@[simp] theorem raise_illegalCommand_errLength (s : State) : (s.raise .illegalCommand).errLength = s.errLength := rfl
@[simp] theorem raise_illegalCommand_errCmd (s : State) : (s.raise .illegalCommand).errCmd = true := rfl

end Sys2Proof.Machine
end

