-- ==== Sys2Proof/Laws/Ops.lean ====
section
/-! SUPPORT. What the shared operations, one transaction and one step can do: one lemma each, which later proofs cite instead
of unfolding the definitions. -/

namespace Sys2Proof.Machine

/-! ### Holding and finishing -/

theorem finishUnlessBusy_busy {s : State} (t : State) (h : s.busy = true) : finishUnlessBusy s t = .next s := by
  simp [finishUnlessBusy, h]

theorem finishUnlessBusy_idle {s : State} (t : State) (h : s.busy = false) : finishUnlessBusy s t = .next t := by
  simp [finishUnlessBusy, h]

theorem finishUnlessBusy_cases {s t u : State} (h : finishUnlessBusy s t = .next u) :
    (s.busy = true ∧ u = s) ∨ (s.busy = false ∧ u = t) := by
  cases hb : s.busy
  · rw [finishUnlessBusy_idle t hb] at h
    exact .inr ⟨rfl, by cases h; rfl⟩
  · rw [finishUnlessBusy_busy t hb] at h
    exact .inl ⟨rfl, by cases h; rfl⟩

theorem finish_cases {t u : State} (h : finish t = .next u) : u = t := by cases h; rfl

/-! ### Views that only some fields feed -/

theorem busy_of_phase {s t : State} (h : s.phase = t.phase) : s.busy = t.busy := by simp [State.busy, h]

theorem busy_eq_true_iff (s : State) : s.busy = true ↔ ∃ p, s.phase = .busy p := by
  unfold State.busy; split <;> simp_all

theorem busy_eq_false_iff (s : State) : s.busy = false ↔ s.phase = .idle := by
  unfold State.busy; split <;> simp_all

@[simp] theorem busy_retire (s : State) : s.retire.busy = s.busy := rfl

@[simp] theorem busy_reply (s : State) (v : Word) : (s.reply v).busy = s.busy := rfl

@[simp] theorem busy_accept (s : State) (p : Pending) : (s.accept p).busy = true := rfl

@[simp] theorem busy_raise (s : State) (e : EngineError) : (s.raise e).busy = s.busy := by cases e <;> rfl

@[simp] theorem busy_tick (s : State) : s.tick.busy = s.busy := rfl

@[simp] theorem engineBase_tick (s : State) : s.tick.engineBase = s.engineBase := rfl

@[simp] theorem engineBase_retire (s : State) : s.retire.engineBase = s.engineBase := rfl

/-! ### Commands at the write -/

/-- The bytes an UPDATE latches are n in number (R75, R76). -/
theorem length_latchBytes (nbm1 : BitVec 2) (d : Word) : (latchBytes nbm1 d).length = nbm1.toNat + 1 := by
  have := nbm1.isLt
  simp only [latchBytes, be32bytes, updateCount, List.length_take, List.length_cons, List.length_nil]
  omega

theorem lengthExceeded_iff (s : State) (n : Nat) : s.lengthExceeded n = true ↔ maxLen < s.len.toNat + n :=
  decide_eq_true_iff

/-- What a legal or illegal command write can do to an idle engine (R202): raise one error, or accept one command that R202
allows. -/
def State.Issued (s t : State) : Prop :=
  (∃ e, t = s.raise e ∧ (e = .stateError → s.closed = true) ∧ (e = .lengthOverflow → s.closed = false)) ∨
    ∃ p, t = s.accept p ∧ (s.accept p).PendingLegal

theorem issueInit_issued (s : State) : s.Issued s.issueInit := .inr ⟨.init, rfl, trivial⟩

theorem issueUpdate_issued (nbm1 : BitVec 2) (s : State) : s.Issued (s.issueUpdate nbm1) := by
  have hn := length_latchBytes nbm1 s.data
  have hlt := nbm1.isLt
  have hu : updateCount nbm1 = nbm1.toNat + 1 := rfl
  unfold State.issueUpdate
  split_ifs with hc hl
  · exact .inl ⟨.stateError, rfl, fun _ => hc, nofun⟩
  · exact .inl ⟨.lengthOverflow, rfl, nofun, fun _ => by simpa using hc⟩
  · refine .inr ⟨_, rfl, by simpa using hc, ?_, ?_, ?_⟩
    · omega
    · omega
    · rw [lengthExceeded_iff] at hl
      rw [accept_len]
      omega

theorem issueFinalize_issued (s : State) : s.Issued s.issueFinalize := by
  unfold State.issueFinalize
  split_ifs with hc
  · exact .inl ⟨.stateError, rfl, fun _ => hc, nofun⟩
  · exact .inr ⟨.finalize, rfl, by simpa [State.PendingLegal] using hc⟩

theorem issueWord_issued (v : Word) (s : State) : s.Issued (s.issueWord v) := by
  unfold State.issueWord
  split_ifs
  · exact .inl ⟨.illegalCommand, rfl, nofun, nofun⟩
  · exact issueInit_issued s
  · exact issueUpdate_issued _ s
  · exact issueFinalize_issued s

/-! ### One transaction -/

/-- Everything a transaction can do: nothing because it is held; return a word; write DATA; nothing but end; or, with the
engine idle, what a command write can do. -/
theorem exec_cases {i : Instr} {s t : State} (h : exec i s = .next t) :
    (heldInstr i = true ∧ s.busy = true ∧ t = s) ∨
    (readInstr i = true ∧ ∃ v, t = s.reply v) ∨
    (∃ d, i = .wrData d ∧ t = ({ s with data := d }).retire) ∨
    (heldInstr i = false ∧ readInstr i = false ∧ t = s.retire) ∨
    (heldInstr i = true ∧ readInstr i = false ∧ s.busy = false ∧ ∃ u, s.Issued u ∧ t = u.retire) := by
  cases i with
  | init =>
    obtain ⟨hb, rfl⟩ | ⟨hb, rfl⟩ := finishUnlessBusy_cases h
    · exact .inl ⟨rfl, hb, rfl⟩
    · exact .inr (.inr (.inr (.inr ⟨rfl, rfl, hb, _, issueInit_issued s, rfl⟩)))
  | update n =>
    obtain ⟨hb, rfl⟩ | ⟨hb, rfl⟩ := finishUnlessBusy_cases h
    · exact .inl ⟨rfl, hb, rfl⟩
    · exact .inr (.inr (.inr (.inr ⟨rfl, rfl, hb, _, issueUpdate_issued n s, rfl⟩)))
  | finalize =>
    obtain ⟨hb, rfl⟩ | ⟨hb, rfl⟩ := finishUnlessBusy_cases h
    · exact .inl ⟨rfl, hb, rfl⟩
    · exact .inr (.inr (.inr (.inr ⟨rfl, rfl, hb, _, issueFinalize_issued s, rfl⟩)))
  | wrCmd v =>
    obtain ⟨hb, rfl⟩ | ⟨hb, rfl⟩ := finishUnlessBusy_cases h
    · exact .inl ⟨rfl, hb, rfl⟩
    · exact .inr (.inr (.inr (.inr ⟨rfl, rfl, hb, _, issueWord_issued v s, rfl⟩)))
  | rdDigest n =>
    obtain ⟨hb, rfl⟩ | ⟨_, rfl⟩ := finishUnlessBusy_cases h
    · exact .inl ⟨rfl, hb, rfl⟩
    · exact .inr (.inl ⟨rfl, _, rfl⟩)
  | rdCmd => exact .inr (.inl ⟨rfl, _, finish_cases h⟩)
  | rdData => exact .inr (.inl ⟨rfl, _, finish_cases h⟩)
  | rdStatus => exact .inr (.inl ⟨rfl, _, finish_cases h⟩)
  | rdRsvd0C => exact .inr (.inl ⟨rfl, _, finish_cases h⟩)
  | rdRsvd1X w => exact .inr (.inl ⟨rfl, _, finish_cases h⟩)
  | wrData v => exact .inr (.inr (.inl ⟨v, rfl, finish_cases h⟩))
  | wrStatus v => exact .inr (.inr (.inr (.inl ⟨rfl, rfl, finish_cases h⟩)))
  | wrRsvd0C v => exact .inr (.inr (.inr (.inl ⟨rfl, rfl, finish_cases h⟩)))
  | wrRsvd1X w v => exact .inr (.inr (.inr (.inl ⟨rfl, rfl, finish_cases h⟩)))
  | wrDigest n v => exact .inr (.inr (.inr (.inl ⟨rfl, rfl, finish_cases h⟩)))

/-! ### One step -/

/-- Everything a step can do: the reset event, the completion, nothing, or the decoded transaction at the port. -/
theorem step_cases {s t : State} (h : step s = .next t) :
    (s.resetNow = true ∧ t = s.tick.takeReset) ∨
    (s.resetNow = false ∧ s.completionDue = true ∧ t = s.tick.complete) ∨
    (s.resetNow = false ∧ s.completionDue = false ∧ s.queue = [] ∧ t = s.tick) ∨
    (s.resetNow = false ∧ s.completionDue = false ∧ ∃ a rest i,
      s.queue = a :: rest ∧ decode s.engineBase a = .ok i ∧ exec i s.tick = .next t) := by
  unfold step at h
  cases hr : s.resetNow <;> simp only [hr, if_true, Bool.false_eq_true, if_false] at h
  · cases hc : s.completionDue <;> simp only [hc, if_true, Bool.false_eq_true, if_false] at h
    · refine .inr (.inr ?_)
      cases hq : s.queue with
      | nil =>
        simp only [State.fetch, hq, List.head?_nil, Option.map_none] at h
        exact .inl ⟨rfl, rfl, rfl, by cases h; rfl⟩
      | cons a rest =>
        simp only [State.fetch, hq, List.head?_cons, Option.map_some] at h
        cases hd : decode s.engineBase a with
        | error e => simp only [hd] at h; cases e <;> cases h
        | ok i => simp only [hd] at h; exact .inr ⟨rfl, rfl, a, rest, i, rfl, hd, h⟩
    · exact .inr (.inl ⟨rfl, rfl, by cases h; rfl⟩)
  · exact .inl ⟨rfl, by cases h; rfl⟩

theorem step_reset {s : State} (h : s.resetNow = true) : step s = .next s.tick.takeReset := by simp [step, h]

theorem step_completion {s : State} (hr : s.resetNow = false) (h : s.completionDue = true) :
    step s = .next s.tick.complete := by simp [step, hr, h]

theorem step_idle {s : State} (hr : s.resetNow = false) (hc : s.completionDue = false) (hq : s.queue = []) :
    step s = .next s.tick := by simp [step, hr, hc, State.fetch, hq]

theorem step_transaction {s : State} {a : Access} {rest : List Access} {i : Instr} (hr : s.resetNow = false)
    (hc : s.completionDue = false) (hq : s.queue = a :: rest) (hd : decode s.engineBase a = .ok i) :
    step s = exec i s.tick := by simp [step, hr, hc, State.fetch, hq, hd]

theorem step_rejects {s : State} {a : Access} {rest : List Access} {e : DecodeError} (hr : s.resetNow = false)
    (hc : s.completionDue = false) (hq : s.queue = a :: rest) (hd : decode s.engineBase a = .error e) :
    step s = rejectAccess e := by simp [step, hr, hc, State.fetch, hq, hd]

/-! ### Runs -/

theorem run_zero (M : Host.Core) (s : M.State) : M.run 0 s = .next s := by rw [Host.Core.run]

theorem run_succ_next {M : Host.Core} {s t : M.State} (h : M.step s = .next t) (k : Nat) :
    M.run (k + 1) s = M.run k t := by rw [Host.Core.run, h]

theorem run_succ_fault {M : Host.Core} {s : M.State} {r : M.Fault} (h : M.step s = .fault r) (k : Nat) :
    M.run (k + 1) s = .fault r := by rw [Host.Core.run, h]

theorem run_succ_refused {M : Host.Core} {s : M.State} {r : M.Refusal} (h : M.step s = .refused r) (k : Nat) :
    M.run (k + 1) s = .refused r := by rw [Host.Core.run, h]

/-- Runs compose. -/
theorem run_add {M : Host.Core} {s t : M.State} {m : Nat} (h : M.run m s = .next t) (n : Nat) :
    M.run (m + n) s = M.run n t := by
  induction m generalizing s with
  | zero =>
    rw [run_zero] at h
    cases h
    rw [Nat.zero_add]
  | succ m ih =>
    rw [Nat.add_right_comm]
    cases hs : M.step s with
    | next u =>
      rw [run_succ_next hs] at h ⊢
      exact ih h
    | fault r =>
      rw [run_succ_fault hs] at h
      cases h
    | refused r =>
      rw [run_succ_refused hs] at h
      cases h

/-! The same for this machine, whose step is `step`. -/

theorem core_run_zero (s : State) : core.run 0 s = .next s := run_zero core s

theorem core_run_succ {s t : State} (h : step s = .next t) (k : Nat) : core.run (k + 1) s = core.run k t :=
  run_succ_next (M := core) h k

theorem core_run_one {s t : State} (h : step s = .next t) : core.run 1 s = .next t :=
  (core_run_succ h 0).trans (core_run_zero t)

theorem core_run_refused {s : State} {r : Refusal} (h : step s = .refused r) (k : Nat) :
    core.run (k + 1) s = .refused r := run_succ_refused (M := core) h k

theorem core_run_add {s t : State} {m : Nat} (h : core.run m s = .next t) (n : Nat) :
    core.run (m + n) s = core.run n t := run_add (M := core) h n

end Sys2Proof.Machine
end

