-- ==== Sys2Proof/Laws/Data.lean ====
section
/-! SUPPORT. The data path: what absorbing, compressing and completing leave alone, the split of byte strings into blocks, and
the bytes an engine holds of the message it has absorbed. -/

namespace Sys2Proof.Machine


/-- Compressing a block in one line (R173): H, and free values in a..h, W and t. Rewrite with it rather than unfold. -/
theorem compressBlock_eq (s : State) (B : Block) :
    s.compressBlock B = ({ s with h := compress s.h B } : State).forgetWork := by
  simp only [State.compressBlock, compress, State.forgetWork]

/-- absorb short of a full block (R121). -/
theorem absorb_short {s : State} (x : Byte) (h : s.bufcnt ≠ 63) :
    s.absorb x = { s.storeByte x with bufcnt := s.bufcnt + 1 } := if_neg h

/-- absorb completing a block (R121), field by field. -/
theorem absorb_full {s : State} (x : Byte) (h : s.bufcnt = 63) :
    s.absorb x = { s with
      h := compress s.h (s.storeByte x).buf
      bufcnt := 0
      buf := Config.freeBuf (s.freeCount + 1)
      work := Config.freeWorking s.freeCount
      w := Config.freeSchedule s.freeCount
      round := Config.freeRound s.freeCount
      freeCount := s.freeCount + 2 } := by
  unfold State.absorb
  rw [if_pos h, compressBlock_eq]
  simp only [State.forgetWork, State.forgetBuf, State.storeByte]

/-! ### What absorbing bytes leaves alone (R121: no flag, no counter but BUFCNT) -/

@[simp] theorem absorb_len (s : State) (x : Byte) : (s.absorb x).len = s.len := by
  unfold State.absorb; split_ifs <;> rfl

@[simp] theorem absorb_phase (s : State) (x : Byte) : (s.absorb x).phase = s.phase := by
  unfold State.absorb; split_ifs <;> rfl

@[simp] theorem absorb_data (s : State) (x : Byte) : (s.absorb x).data = s.data := by
  unfold State.absorb; split_ifs <;> rfl

@[simp] theorem absorb_closed (s : State) (x : Byte) : (s.absorb x).closed = s.closed := by
  unfold State.absorb; split_ifs <;> rfl

@[simp] theorem absorb_dvalid (s : State) (x : Byte) : (s.absorb x).dvalid = s.dvalid := by
  unfold State.absorb; split_ifs <;> rfl

@[simp] theorem absorb_errState (s : State) (x : Byte) : (s.absorb x).errState = s.errState := by
  unfold State.absorb; split_ifs <;> rfl

@[simp] theorem absorb_errLength (s : State) (x : Byte) : (s.absorb x).errLength = s.errLength := by
  unfold State.absorb; split_ifs <;> rfl

@[simp] theorem absorb_errCmd (s : State) (x : Byte) : (s.absorb x).errCmd = s.errCmd := by
  unfold State.absorb; split_ifs <;> rfl

@[simp] theorem absorb_baseBlock (s : State) (x : Byte) : (s.absorb x).baseBlock = s.baseBlock := by
  unfold State.absorb; split_ifs <;> rfl

@[simp] theorem absorb_latencyLeft (s : State) (x : Byte) : (s.absorb x).latencyLeft = s.latencyLeft := by
  unfold State.absorb; split_ifs <;> rfl

@[simp] theorem absorb_queue (s : State) (x : Byte) : (s.absorb x).queue = s.queue := by
  unfold State.absorb; split_ifs <;> rfl

@[simp] theorem absorb_results (s : State) (x : Byte) : (s.absorb x).results = s.results := by
  unfold State.absorb; split_ifs <;> rfl

@[simp] theorem absorb_resetLine (s : State) (x : Byte) : (s.absorb x).resetLine = s.resetLine := by
  unfold State.absorb; split_ifs <;> rfl

@[simp] theorem absorbAll_len (bytes : List Byte) (s : State) : (s.absorbAll bytes).len = s.len := by
  induction bytes generalizing s with
  | nil => rfl
  | cons x xs ih => exact (ih (s.absorb x)).trans (absorb_len s x)

@[simp] theorem absorbAll_phase (bytes : List Byte) (s : State) : (s.absorbAll bytes).phase = s.phase := by
  induction bytes generalizing s with
  | nil => rfl
  | cons x xs ih => exact (ih (s.absorb x)).trans (absorb_phase s x)

@[simp] theorem absorbAll_data (bytes : List Byte) (s : State) : (s.absorbAll bytes).data = s.data := by
  induction bytes generalizing s with
  | nil => rfl
  | cons x xs ih => exact (ih (s.absorb x)).trans (absorb_data s x)

@[simp] theorem absorbAll_closed (bytes : List Byte) (s : State) : (s.absorbAll bytes).closed = s.closed := by
  induction bytes generalizing s with
  | nil => rfl
  | cons x xs ih => exact (ih (s.absorb x)).trans (absorb_closed s x)

@[simp] theorem absorbAll_dvalid (bytes : List Byte) (s : State) : (s.absorbAll bytes).dvalid = s.dvalid := by
  induction bytes generalizing s with
  | nil => rfl
  | cons x xs ih => exact (ih (s.absorb x)).trans (absorb_dvalid s x)

@[simp] theorem absorbAll_errState (bytes : List Byte) (s : State) : (s.absorbAll bytes).errState = s.errState := by
  induction bytes generalizing s with
  | nil => rfl
  | cons x xs ih => exact (ih (s.absorb x)).trans (absorb_errState s x)

@[simp] theorem absorbAll_errLength (bytes : List Byte) (s : State) : (s.absorbAll bytes).errLength = s.errLength := by
  induction bytes generalizing s with
  | nil => rfl
  | cons x xs ih => exact (ih (s.absorb x)).trans (absorb_errLength s x)

@[simp] theorem absorbAll_errCmd (bytes : List Byte) (s : State) : (s.absorbAll bytes).errCmd = s.errCmd := by
  induction bytes generalizing s with
  | nil => rfl
  | cons x xs ih => exact (ih (s.absorb x)).trans (absorb_errCmd s x)

@[simp] theorem absorbAll_baseBlock (bytes : List Byte) (s : State) : (s.absorbAll bytes).baseBlock = s.baseBlock := by
  induction bytes generalizing s with
  | nil => rfl
  | cons x xs ih => exact (ih (s.absorb x)).trans (absorb_baseBlock s x)

@[simp] theorem absorbAll_latencyLeft (bytes : List Byte) (s : State) : (s.absorbAll bytes).latencyLeft = s.latencyLeft := by
  induction bytes generalizing s with
  | nil => rfl
  | cons x xs ih => exact (ih (s.absorb x)).trans (absorb_latencyLeft s x)

@[simp] theorem absorbAll_queue (bytes : List Byte) (s : State) : (s.absorbAll bytes).queue = s.queue := by
  induction bytes generalizing s with
  | nil => rfl
  | cons x xs ih => exact (ih (s.absorb x)).trans (absorb_queue s x)

@[simp] theorem absorbAll_results (bytes : List Byte) (s : State) : (s.absorbAll bytes).results = s.results := by
  induction bytes generalizing s with
  | nil => rfl
  | cons x xs ih => exact (ih (s.absorb x)).trans (absorb_results s x)

@[simp] theorem absorbAll_resetLine (bytes : List Byte) (s : State) : (s.absorbAll bytes).resetLine = s.resetLine := by
  induction bytes generalizing s with
  | nil => rfl
  | cons x xs ih => exact (ih (s.absorb x)).trans (absorb_resetLine s x)

/-! ### What an UPDATE completion leaves alone (R205) -/

@[simp] theorem completeUpdate_phase (bytes : List Byte) (s : State) : (s.completeUpdate bytes).phase = s.phase :=
  absorbAll_phase bytes s

@[simp] theorem completeUpdate_data (bytes : List Byte) (s : State) : (s.completeUpdate bytes).data = s.data :=
  absorbAll_data bytes s

@[simp] theorem completeUpdate_closed (bytes : List Byte) (s : State) : (s.completeUpdate bytes).closed = s.closed :=
  absorbAll_closed bytes s

@[simp] theorem completeUpdate_dvalid (bytes : List Byte) (s : State) : (s.completeUpdate bytes).dvalid = s.dvalid :=
  absorbAll_dvalid bytes s

@[simp] theorem completeUpdate_errState (bytes : List Byte) (s : State) : (s.completeUpdate bytes).errState = s.errState :=
  absorbAll_errState bytes s

@[simp] theorem completeUpdate_errLength (bytes : List Byte) (s : State) : (s.completeUpdate bytes).errLength = s.errLength :=
  absorbAll_errLength bytes s

@[simp] theorem completeUpdate_errCmd (bytes : List Byte) (s : State) : (s.completeUpdate bytes).errCmd = s.errCmd :=
  absorbAll_errCmd bytes s

@[simp] theorem completeUpdate_baseBlock (bytes : List Byte) (s : State) : (s.completeUpdate bytes).baseBlock = s.baseBlock :=
  absorbAll_baseBlock bytes s

@[simp] theorem completeUpdate_latencyLeft (bytes : List Byte) (s : State) : (s.completeUpdate bytes).latencyLeft = s.latencyLeft :=
  absorbAll_latencyLeft bytes s

@[simp] theorem completeUpdate_queue (bytes : List Byte) (s : State) : (s.completeUpdate bytes).queue = s.queue :=
  absorbAll_queue bytes s

@[simp] theorem completeUpdate_results (bytes : List Byte) (s : State) : (s.completeUpdate bytes).results = s.results :=
  absorbAll_results bytes s

@[simp] theorem completeUpdate_resetLine (bytes : List Byte) (s : State) : (s.completeUpdate bytes).resetLine = s.resetLine :=
  absorbAll_resetLine bytes s

@[simp] theorem completeUpdate_h (bytes : List Byte) (s : State) :
    (s.completeUpdate bytes).h = (s.absorbAll bytes).h := rfl

@[simp] theorem completeUpdate_buf (bytes : List Byte) (s : State) :
    (s.completeUpdate bytes).buf = (s.absorbAll bytes).buf := rfl

@[simp] theorem completeUpdate_bufcnt (bytes : List Byte) (s : State) :
    (s.completeUpdate bytes).bufcnt = (s.absorbAll bytes).bufcnt := rfl

@[simp] theorem completeUpdate_len (bytes : List Byte) (s : State) :
    (s.completeUpdate bytes).len = s.len + BitVec.ofNat 61 bytes.length := by
  rw [← absorbAll_len bytes s]; rfl

/-! ### What compressing blocks leaves alone (R173) -/

@[simp] theorem compressAll_buf (bs : List Block) (s : State) : (s.compressAll bs).buf = s.buf := by
  induction bs generalizing s with
  | nil => rfl
  | cons B Bs ih => exact ih (s.compressBlock B)

@[simp] theorem compressAll_bufcnt (bs : List Block) (s : State) : (s.compressAll bs).bufcnt = s.bufcnt := by
  induction bs generalizing s with
  | nil => rfl
  | cons B Bs ih => exact ih (s.compressBlock B)

@[simp] theorem compressAll_len (bs : List Block) (s : State) : (s.compressAll bs).len = s.len := by
  induction bs generalizing s with
  | nil => rfl
  | cons B Bs ih => exact ih (s.compressBlock B)

@[simp] theorem compressAll_phase (bs : List Block) (s : State) : (s.compressAll bs).phase = s.phase := by
  induction bs generalizing s with
  | nil => rfl
  | cons B Bs ih => exact ih (s.compressBlock B)

@[simp] theorem compressAll_data (bs : List Block) (s : State) : (s.compressAll bs).data = s.data := by
  induction bs generalizing s with
  | nil => rfl
  | cons B Bs ih => exact ih (s.compressBlock B)

@[simp] theorem compressAll_closed (bs : List Block) (s : State) : (s.compressAll bs).closed = s.closed := by
  induction bs generalizing s with
  | nil => rfl
  | cons B Bs ih => exact ih (s.compressBlock B)

@[simp] theorem compressAll_dvalid (bs : List Block) (s : State) : (s.compressAll bs).dvalid = s.dvalid := by
  induction bs generalizing s with
  | nil => rfl
  | cons B Bs ih => exact ih (s.compressBlock B)

@[simp] theorem compressAll_errState (bs : List Block) (s : State) : (s.compressAll bs).errState = s.errState := by
  induction bs generalizing s with
  | nil => rfl
  | cons B Bs ih => exact ih (s.compressBlock B)

@[simp] theorem compressAll_errLength (bs : List Block) (s : State) : (s.compressAll bs).errLength = s.errLength := by
  induction bs generalizing s with
  | nil => rfl
  | cons B Bs ih => exact ih (s.compressBlock B)

@[simp] theorem compressAll_errCmd (bs : List Block) (s : State) : (s.compressAll bs).errCmd = s.errCmd := by
  induction bs generalizing s with
  | nil => rfl
  | cons B Bs ih => exact ih (s.compressBlock B)

@[simp] theorem compressAll_baseBlock (bs : List Block) (s : State) : (s.compressAll bs).baseBlock = s.baseBlock := by
  induction bs generalizing s with
  | nil => rfl
  | cons B Bs ih => exact ih (s.compressBlock B)

@[simp] theorem compressAll_latencyLeft (bs : List Block) (s : State) : (s.compressAll bs).latencyLeft = s.latencyLeft := by
  induction bs generalizing s with
  | nil => rfl
  | cons B Bs ih => exact ih (s.compressBlock B)

@[simp] theorem compressAll_queue (bs : List Block) (s : State) : (s.compressAll bs).queue = s.queue := by
  induction bs generalizing s with
  | nil => rfl
  | cons B Bs ih => exact ih (s.compressBlock B)

@[simp] theorem compressAll_results (bs : List Block) (s : State) : (s.compressAll bs).results = s.results := by
  induction bs generalizing s with
  | nil => rfl
  | cons B Bs ih => exact ih (s.compressBlock B)

@[simp] theorem compressAll_resetLine (bs : List Block) (s : State) : (s.compressAll bs).resetLine = s.resetLine := by
  induction bs generalizing s with
  | nil => rfl
  | cons B Bs ih => exact ih (s.compressBlock B)

/-- The blocks compressed one after the other are R193's fold. -/
@[simp] theorem compressAll_h (bs : List Block) (s : State) : (s.compressAll bs).h = foldCompress s.h bs := by
  induction bs generalizing s with
  | nil => rfl
  | cons B Bs ih => exact ih (s.compressBlock B)

/-! ### What a FINALIZE completion leaves (R209) -/

@[simp] theorem completeFinalize_len (s : State) : s.completeFinalize.len = s.len :=
  compressAll_len _ s

@[simp] theorem completeFinalize_phase (s : State) : s.completeFinalize.phase = s.phase :=
  compressAll_phase _ s

@[simp] theorem completeFinalize_data (s : State) : s.completeFinalize.data = s.data :=
  compressAll_data _ s

@[simp] theorem completeFinalize_closed (s : State) : s.completeFinalize.closed = true := rfl

@[simp] theorem completeFinalize_dvalid (s : State) : s.completeFinalize.dvalid = true := rfl

@[simp] theorem completeFinalize_errState (s : State) : s.completeFinalize.errState = s.errState :=
  compressAll_errState _ s

@[simp] theorem completeFinalize_errLength (s : State) : s.completeFinalize.errLength = s.errLength :=
  compressAll_errLength _ s

@[simp] theorem completeFinalize_errCmd (s : State) : s.completeFinalize.errCmd = s.errCmd :=
  compressAll_errCmd _ s

@[simp] theorem completeFinalize_baseBlock (s : State) : s.completeFinalize.baseBlock = s.baseBlock :=
  compressAll_baseBlock _ s

@[simp] theorem completeFinalize_latencyLeft (s : State) : s.completeFinalize.latencyLeft = s.latencyLeft :=
  compressAll_latencyLeft _ s

@[simp] theorem completeFinalize_queue (s : State) : s.completeFinalize.queue = s.queue :=
  compressAll_queue _ s

@[simp] theorem completeFinalize_results (s : State) : s.completeFinalize.results = s.results :=
  compressAll_results _ s

@[simp] theorem completeFinalize_resetLine (s : State) : s.completeFinalize.resetLine = s.resetLine :=
  compressAll_resetLine _ s

@[simp] theorem completeFinalize_h (s : State) :
    s.completeFinalize.h = foldCompress s.h (padTail s.buf s.bufcnt.toNat s.len.toNat) :=
  compressAll_h _ s

/-! ### What any completion leaves (R203) -/

@[simp] theorem complete_data (s : State) : s.complete.data = s.data := by
  unfold State.complete; split <;> simp

@[simp] theorem complete_baseBlock (s : State) : s.complete.baseBlock = s.baseBlock := by
  unfold State.complete; split <;> simp

@[simp] theorem complete_latencyLeft (s : State) : s.complete.latencyLeft = s.latencyLeft := by
  unfold State.complete; split <;> simp

@[simp] theorem complete_queue (s : State) : s.complete.queue = s.queue := by
  unfold State.complete; split <;> simp

@[simp] theorem complete_results (s : State) : s.complete.results = s.results := by
  unfold State.complete; split <;> simp

@[simp] theorem complete_resetLine (s : State) : s.complete.resetLine = s.resetLine := by
  unfold State.complete; split <;> simp

@[simp] theorem complete_phase (s : State) : s.complete.phase = .idle := by
  unfold State.complete; split <;> simp_all

@[simp] theorem complete_busy (s : State) : s.complete.busy = false := by simp [State.busy]

/-- With no command pending there is nothing to complete. -/
theorem complete_idle {s : State} (h : s.phase = .idle) : s.complete = s := by simp [State.complete, h]

theorem complete_init {s : State} (h : s.phase = .busy .init) : s.complete = { s.completeInit with phase := .idle } := by
  simp [State.complete, h]

theorem complete_update {s : State} {bytes : List Byte} (h : s.phase = .busy (.update bytes)) :
    s.complete = { s.completeUpdate bytes with phase := .idle } := by simp [State.complete, h]

theorem complete_finalize {s : State} (h : s.phase = .busy .finalize) :
    s.complete = { s.completeFinalize with phase := .idle } := by simp [State.complete, h]

/-! ### Byte strings and blocks (R9, R193) -/

theorem byteAt_append_left {P Q : List Byte} {i : Nat} (h : i < P.length) : byteAt (P ++ Q) i = byteAt P i :=
  List.getD_append _ _ _ _ h

theorem byteAt_append_right {P Q : List Byte} {i : Nat} (h : P.length ≤ i) :
    byteAt (P ++ Q) i = byteAt Q (i - P.length) :=
  List.getD_append_right _ _ _ _ h

theorem byteAt_eq_getElem {P : List Byte} {i : Nat} (h : i < P.length) : byteAt P i = P[i] := by
  simp [byteAt, h]

/-- Splitting at a block boundary splits the blocks. -/
theorem blocks_append {P : List Byte} (Q : List Byte) (h : P.length % 64 = 0) :
    blocks (P ++ Q) = blocks P ++ blocks Q := by
  have hlen : (P ++ Q).length / 64 = P.length / 64 + Q.length / 64 := by
    rw [List.length_append]; omega
  unfold blocks
  rw [hlen, List.range_add, List.map_append, List.map_map]
  refine congrArg₂ (· ++ ·) ?_ ?_
  · refine List.map_congr_left fun k hk => ?_
    rw [List.mem_range] at hk
    apply Vector.ext
    intro i hi
    simp only [blockAt, Vector.getElem_ofFn]
    exact byteAt_append_left (by omega)
  · refine List.map_congr_left fun k _ => ?_
    apply Vector.ext
    intro i hi
    simp only [blockAt, Vector.getElem_ofFn, Function.comp_apply]
    rw [byteAt_append_right (by omega)]
    congr 1
    omega

/-- A string of 64 bytes is one block. -/
theorem blocks_of_length_64 {P : List Byte} (h : P.length = 64) : blocks P = [blockAt P 0] := by
  simp [blocks, h, List.range_succ]

theorem blocks_of_length_lt {P : List Byte} (h : P.length < 64) : blocks P = [] := by
  simp [blocks, Nat.div_eq_of_lt h]

theorem foldCompress_append (H : HashState) (bs cs : List Block) :
    foldCompress H (bs ++ cs) = foldCompress (foldCompress H bs) cs := List.foldl_append

/-- A block whose bytes are those of a byte string is that string's first block. -/
theorem blockAt_zero_eq {P : List Byte} {B : Block} (h : P = B.toList) : blockAt P 0 = B := by
  subst h
  apply Vector.ext
  intro i hi
  simp only [blockAt, Vector.getElem_ofFn, Nat.mul_zero, Nat.zero_add]
  rw [byteAt_eq_getElem (by simpa using hi)]
  simp

/-! ### What an engine holds of the message (R125) -/

/-- R125 but for LEN, which an UPDATE moves once for its whole chunk: the bytes of M past its last full block are in BUF, and
the full blocks are folded into H. -/
structure State.Holds (s : State) (M : List Byte) : Prop where
  bufcnt_eq : s.bufcnt.toNat = M.length % 64
  buf_eq : s.buf.toList.take (M.length % 64) = M.drop (M.length - M.length % 64)
  h_eq : s.h = foldCompress h0Rom (blocks (M.take (M.length - M.length % 64)))

theorem represents_iff (s : State) (M : List Byte) : s.Represents M ↔ s.len.toNat = M.length ∧ s.Holds M := by
  constructor
  · rintro ⟨h1, h2, h3, h4⟩
    rw [h1] at h2
    rw [h1, h2] at h3 h4
    exact ⟨h1, h2, h3, h4⟩
  · rintro ⟨h1, h2, h3, h4⟩
    exact ⟨h1, by rw [h1, h2], by rw [h1, h2]; exact h3, by rw [h1, h2]; exact h4⟩

theorem holds_nil {s : State} (hc : s.bufcnt = 0) (hh : s.h = h0Rom) : s.Holds [] := by
  refine ⟨by simp [hc], by simp, ?_⟩
  rw [hh]; rfl

/-- The bytes in BUF followed by the byte that fills it are the block compressed (R121). -/
theorem storeByte_block {s : State} (x : Byte) (h : s.bufcnt.toNat = 63) :
    (s.storeByte x).buf.toList = s.buf.toList.take 63 ++ [x] := by
  have hl : s.buf.toList.length = 64 := by simp
  simp only [storeByte_buf, Vector.toList_set, h]
  apply List.ext_getElem
  · simp
  · intro i h1 h2
    simp only [List.length_set, hl] at h1
    rw [List.getElem_set, List.getElem_append]
    simp only [List.length_take, hl]
    split_ifs with ha hb hb
    · omega
    · have : i - 63 = 0 := by omega
      simp
    · simp
    · omega

/-- absorb(x) appends x to the message held (R121, R123, R125). -/
theorem absorb_holds {s : State} {M : List Byte} (x : Byte) (h : s.Holds M) : (s.absorb x).Holds (M ++ [x]) := by
  obtain ⟨h1, h2, h3⟩ := h
  have hlt := s.bufcnt.isLt
  have hlen : (M ++ [x]).length = M.length + 1 := by simp
  have hbl : s.buf.toList.length = 64 := by simp
  have hpre : (M.take (M.length - M.length % 64)).length = M.length - M.length % 64 := by
    rw [List.length_take]; omega
  by_cases h63 : s.bufcnt = 63
  · have h63' : s.bufcnt.toNat = 63 := by rw [h63]; rfl
    have hm : M.length % 64 = 63 := by omega
    have hm1 : (M.length + 1) % 64 = 0 := by omega
    have hfull : M.take (M.length - 63) ++ (s.buf.toList.take 63 ++ [x]) = M ++ [x] := by
      rw [hm] at h2
      rw [h2, ← List.append_assoc, List.take_append_drop]
    refine ⟨?_, ?_, ?_⟩
    · rw [hlen, hm1]; simp [State.absorb, h63]
    · rw [hlen, hm1]; simp
    · have hh : (s.absorb x).h = compress s.h (s.storeByte x).buf := by simp [State.absorb, h63]
      rw [hh, hlen, hm1, Nat.sub_zero, List.take_of_length_le (by omega), ← hfull,
        blocks_append _ (by rw [hm] at hpre; rw [hpre]; omega), foldCompress_append]
      rw [hm] at h3
      rw [← h3, blocks_of_length_64 (by simp), blockAt_zero_eq (storeByte_block x h63').symm]
      rfl
  · have hne : s.bufcnt.toNat ≠ 63 := fun hc => h63 (BitVec.eq_of_toNat_eq (by rw [hc]; rfl))
    have hm1 : (M.length + 1) % 64 = M.length % 64 + 1 := by omega
    have hsub : M.length + 1 - (M.length % 64 + 1) = M.length - M.length % 64 := by omega
    have hab : s.absorb x = { s.storeByte x with bufcnt := s.bufcnt + 1 } := if_neg h63
    refine ⟨?_, ?_, ?_⟩
    · rw [hab, hlen, hm1, ← h1]
      simp only [BitVec.toNat_add]
      rw [show (1 : BitVec 6).toNat = 1 from rfl]
      omega
    · rw [hab, hlen, hm1, hsub, List.drop_append_of_le_length (by omega), ← h2]
      simp only [storeByte_buf, Vector.toList_set, h1]
      rw [List.take_add_one, List.take_set_of_le (Nat.le_refl _), List.getElem?_set_self (by rw [hbl]; omega)]
      rfl
    · rw [hab, hlen, hm1, hsub, List.take_append_of_le_length (by omega)]
      exact h3

theorem absorbAll_holds {s : State} {M : List Byte} (bytes : List Byte) (h : s.Holds M) :
    (s.absorbAll bytes).Holds (M ++ bytes) := by
  induction bytes generalizing s M with
  | nil => rw [List.append_nil]; exact h
  | cons x xs ih =>
    rw [List.append_cons]
    exact ih (absorb_holds x h)

/-- An UPDATE completion appends its bytes to the message represented (R205, R125). -/
theorem completeUpdate_represents {s : State} {M : List Byte} (bytes : List Byte) (h : s.Represents M)
    (hl : M.length + bytes.length ≤ maxLen) : (s.completeUpdate bytes).Represents (M ++ bytes) := by
  rw [represents_iff] at h ⊢
  have hab := absorbAll_holds bytes h.2
  have hmax : maxLen = 2 ^ 61 - 1 := rfl
  refine ⟨?_, hab.bufcnt_eq, hab.buf_eq, hab.h_eq⟩
  rw [completeUpdate_len, BitVec.toNat_add, BitVec.toNat_ofNat, h.1, List.length_append]
  omega

theorem completeInit_represents (s : State) : s.completeInit.Represents [] := by
  rw [represents_iff]
  exact ⟨by simp, holds_nil (by simp) (by simp)⟩

end Sys2Proof.Machine
end

