-- ==== Sys2Proof/Laws/PerInstr.lean ====
section
/-! SUPPORT. Statements made instruction by instruction about the instruction as text: its access key and write data decode
back to it (30_encoding.md R70 to R74). -/

namespace Sys2Proof.Laws.KeyRoundTrip

/-- Well-formed, the instruction's own key and data decode to it; its offset is aligned and inside the window. -/
def Statement (i : Instr) : Prop :=
  i.wf = true →
    decodeKey (accessKey (if (encodeData i).isSome then .write else .read) (encodeOffset i)) ((encodeData i).getD 0) = .ok i ∧
    encodeOffset i % 4 = 0 ∧ encodeOffset i < 64

theorem init : Statement .init := by unfold Statement; decide

theorem update (nbm1 : BitVec 2) : Statement (.update nbm1) := by unfold Statement; revert nbm1; decide

theorem finalize : Statement .finalize := by unfold Statement; decide

theorem rdCmd : Statement .rdCmd := by unfold Statement; decide

theorem rdData : Statement .rdData := by unfold Statement; decide

theorem rdStatus : Statement .rdStatus := by unfold Statement; decide

theorem rdRsvd0C : Statement .rdRsvd0C := by unfold Statement; decide

theorem rdRsvd1X (word : BitVec 2) : Statement (.rdRsvd1X word) := by unfold Statement; revert word; decide

theorem rdDigest (i : BitVec 3) : Statement (.rdDigest i) := by unfold Statement; revert i; decide

theorem wrCmd (v : Word) : Statement (.wrCmd v) := by
  intro h
  rw [wf_wrCmd_iff] at h
  refine ⟨?_, by simp [encodeOffset], by simp [encodeOffset]⟩
  have hd : decodeKey (accessKey .write 0) v = .ok (decodeCommand v) := rfl
  rw [← decodeCommand_illegal h]
  simpa [encodeData_decodeCommand, encodeOffset_decodeCommand] using hd

theorem lookup_wrData : lookupKey (accessKey .write 4) = some .wrData := by decide

theorem wrData (v : Word) : Statement (.wrData v) := fun _ =>
  ⟨by simp [encodeData, encodeOffset, decodeKey, lookup_wrData, buildInstr], by simp [encodeOffset], by simp [encodeOffset]⟩

theorem lookup_wrStatus : lookupKey (accessKey .write 8) = some .wrStatus := by decide

theorem wrStatus (v : Word) : Statement (.wrStatus v) := fun _ =>
  ⟨by simp [encodeData, encodeOffset, decodeKey, lookup_wrStatus, buildInstr], by simp [encodeOffset], by simp [encodeOffset]⟩

theorem lookup_wrRsvd0C : lookupKey (accessKey .write 12) = some .wrRsvd0C := by decide

theorem wrRsvd0C (v : Word) : Statement (.wrRsvd0C v) := fun _ =>
  ⟨by simp [encodeData, encodeOffset, decodeKey, lookup_wrRsvd0C, buildInstr], by simp [encodeOffset], by simp [encodeOffset]⟩

/-- The key of a reserved word, whatever the data. -/
theorem lookup_wrRsvd1X : ∀ word : BitVec 2,
    lookupKey (accessKey .write (0x10 + 4 * word.toNat)) = some .wrRsvd1X ∧
      keyRsvdWord (accessKey .write (0x10 + 4 * word.toNat)) = word ∧ (0x10 + 4 * word.toNat) % 4 = 0 ∧
      0x10 + 4 * word.toNat < 64 := by decide

theorem wrRsvd1X (word : BitVec 2) (v : Word) : Statement (.wrRsvd1X word v) := by
  intro _
  obtain ⟨h1, h2, h3, h4⟩ := lookup_wrRsvd1X word
  exact ⟨by simp [encodeData, encodeOffset, decodeKey, h1, buildInstr, h2], h3, h4⟩

/-- The key of a digest word, whatever the data. -/
theorem lookup_wrDigest : ∀ i : BitVec 3,
    lookupKey (accessKey .write (0x20 + 4 * i.toNat)) = some .wrDigest ∧
      keyDigestIndex (accessKey .write (0x20 + 4 * i.toNat)) = i ∧ (0x20 + 4 * i.toNat) % 4 = 0 ∧
      0x20 + 4 * i.toNat < 64 := by decide

theorem wrDigest (i : BitVec 3) (v : Word) : Statement (.wrDigest i v) := by
  intro _
  obtain ⟨h1, h2, h3, h4⟩ := lookup_wrDigest i
  exact ⟨by simp [encodeData, encodeOffset, decodeKey, h1, buildInstr, h2], h3, h4⟩

end Sys2Proof.Laws.KeyRoundTrip
end

