-- ==== Sys2Proof/Machine/Print.lean ====
section
/-! DEFINITION. The host assembler's spelling of a transaction and the decoder's printing (30_encoding.md R81, R83). -/

namespace Sys2Proof.Machine

/-- One hex digit, 0..9 then A..F. -/
def hexDigit (n : Nat) : Char := ("0123456789ABCDEF".toList).getD n '0'

/-- 0x and 8 digits, most significant first (R8). -/
def hexWord (w : Word) : String :=
  String.ofList ('0' :: 'x' :: [7, 6, 5, 4, 3, 2, 1, 0].map fun k => hexDigit (w.toNat / 16 ^ k % 16))

/-- One decimal digit. -/
def decDigit (n : Nat) : String := String.ofList [hexDigit n]

/-- How a decoder prints a transaction: an access key by its mnemonic of R72, a command word by init, fin or upd.N, and an
illegal command word as the raw write, marked illegal (R83). -/
def printInstr : Instr → String
  | .init => "init"
  | .update nbm1 => "upd." ++ decDigit (nbm1.toNat + 1)
  | .finalize => "fin"
  | .rdCmd => "RD_CMD"
  | .rdData => "RD_DATA"
  | .rdStatus => "RD_STATUS"
  | .rdRsvd0C => "RD_RSVD"
  | .rdRsvd1X _ => "RD_RSVD"
  | .rdDigest _ => "RD_DIGEST"
  | .wrCmd v => "wr CMD, " ++ hexWord v ++ " illegal"
  | .wrData _ => "WR_DATA"
  | .wrStatus _ => "WR_STATUS"
  | .wrRsvd0C _ => "WR_RSVD"
  | .wrRsvd1X _ _ => "WR_RSVD"
  | .wrDigest _ _ => "WR_DIGEST"

/-- The assembler line of a transaction (R81); a reserved offset has no register name there, so no line. -/
def assembleInstr : Instr → Option String
  | .init => some "init"
  | .update nbm1 => some ("upd." ++ decDigit (nbm1.toNat + 1))
  | .finalize => some "fin"
  | .rdCmd => some "rd CMD"
  | .rdData => some "rd DATA"
  | .rdStatus => some "rd STATUS"
  | .rdRsvd0C => none
  | .rdRsvd1X _ => none
  | .rdDigest i => some ("rd DIGEST" ++ decDigit i.toNat)
  | .wrCmd v => some ("wr CMD, " ++ hexWord v)
  | .wrData v => some ("wr DATA, " ++ hexWord v)
  | .wrStatus v => some ("wr STATUS, " ++ hexWord v)
  | .wrRsvd0C _ => none
  | .wrRsvd1X _ _ => none
  | .wrDigest i v => some ("wr DIGEST" ++ decDigit i.toNat ++ ", " ++ hexWord v)

end Sys2Proof.Machine
end

