-- ==== Sys2Proof/Tests/Slice0.lean ====
section
/-! SUPPORT. The model's own tests. Expected values come from the spec: 95_test_vectors.md and the examples of the rules. The
second half shows, for each statement with hypotheses, states and operands that meet them. -/

namespace Sys2Proof.Tests

open Sys2Proof Sys2Proof.Machine

/-! ### Helpers -/

/-- The outcome is a next state and it passes the check. -/
def after (o : Host.Outcome State Fault Refusal) (check : State → Bool) : Bool :=
  match o with
  | .next t => check t
  | .fault _ => false
  | .refused _ => false

def ascii (s : String) : List Byte := s.toList.map fun c => BitVec.ofNat 8 c.toNat

/-- The reset state with these transactions at the port. -/
def withQueue (q : List Access) : State := { State.reset with queue := q }

/-- A command pending with n steps of latency left. -/
def pending (p : Pending) (n : Nat) : State := { State.reset with phase := .busy p, latencyLeft := n }

/-- Closed with a digest (its words are whatever H holds). -/
def closedState : State := { State.reset with closed := true, dvalid := true }

/-- Open with LEN = n. -/
def openAt (n : Nat) : State := { State.reset with len := BitVec.ofNat 61 n, bufcnt := BitVec.ofNat 6 n }

/-- The three bytes of "abc" absorbed (R205's example). -/
def abcState : State :=
  { State.reset with
    buf := ((State.reset.buf.set 0 0x61).set 1 0x62).set 2 0x63
    bufcnt := 3
    len := 3 }

/-- 62 bytes 'x' absorbed (95_test_vectors.md section 2.3). -/
def xState : State := { State.reset with buf := Vector.replicate 64 0x78, bufcnt := 62, len := 62 }

/-! ### Well-formedness: one ill-formed term for the one check -/

theorem test_wf_refuses_legal_words :
    (Instr.wrCmd 0x00000001).wf = false ∧ (Instr.wrCmd 0x00000002).wf = false ∧
    (Instr.wrCmd 0x00000012).wf = false ∧ (Instr.wrCmd 0x00000022).wf = false ∧
    (Instr.wrCmd 0x00000032).wf = false ∧ (Instr.wrCmd 0x00000003).wf = false := by decide

theorem test_wf_accepts_illegal_word : (Instr.wrCmd 0x00000013).wf = true := by decide

/-! ### Decoding: words written out from R71 to R74 -/

theorem test_decode_commands :
    decodeTableWord 32 0b000000_0001 = some .init ∧
    decodeTableWord 32 0b000000_00_0010 = some (.update 0) ∧
    decodeTableWord 32 0b000000_01_0010 = some (.update 1) ∧
    decodeTableWord 32 0b000000_10_0010 = some (.update 2) ∧
    decodeTableWord 32 0b000000_11_0010 = some (.update 3) ∧
    decodeTableWord 32 0b000000_00_0011 = some .finalize := by decide

/-- Section 2.1's illegal words stay raw command writes. -/
theorem test_decode_illegal_commands :
    decodeTableWord 32 0x00000000 = some (.wrCmd 0x00000000) ∧
    decodeTableWord 32 0x00000004 = some (.wrCmd 0x00000004) ∧
    decodeTableWord 32 0x0000000F = some (.wrCmd 0x0000000F) ∧
    decodeTableWord 32 0x00000011 = some (.wrCmd 0x00000011) ∧
    decodeTableWord 32 0x00000013 = some (.wrCmd 0x00000013) ∧
    decodeTableWord 32 0x00000042 = some (.wrCmd 0x00000042) ∧
    decodeTableWord 32 0x80000003 = some (.wrCmd 0x80000003) ∧
    decodeTableWord 32 0xFFFFFFFF = some (.wrCmd 0xFFFFFFFF) := by decide

/-- DIR (bit 6) = 0, WORD (bits 5:2), ALIGN (bits 1:0) = 0. -/
theorem test_decode_reads :
    decodeTableWord 8 0b0_0000_00 = some .rdCmd ∧ decodeTableWord 8 0b0_0001_00 = some .rdData ∧
    decodeTableWord 8 0b0_0010_00 = some .rdStatus ∧ decodeTableWord 8 0b0_0011_00 = some .rdRsvd0C ∧
    decodeTableWord 8 0b0_0100_00 = some (.rdRsvd1X 0) ∧ decodeTableWord 8 0b0_0111_00 = some (.rdRsvd1X 3) ∧
    decodeTableWord 8 0b0_1000_00 = some (.rdDigest 0) ∧
    decodeTableWord 8 0b0_1111_00 = some (.rdDigest 7) := by decide

theorem test_decode_writes :
    decodeTableWord 8 0b1_0000_00 = some (.wrCmd 0) ∧ decodeTableWord 8 0b1_0001_00 = some (.wrData 0) ∧
    decodeTableWord 8 0b1_0010_00 = some (.wrStatus 0) ∧ decodeTableWord 8 0b1_0011_00 = some (.wrRsvd0C 0) ∧
    decodeTableWord 8 0b1_0100_00 = some (.wrRsvd1X 0 0) ∧ decodeTableWord 8 0b1_0101_00 = some (.wrRsvd1X 1 0) ∧
    decodeTableWord 8 0b1_1000_00 = some (.wrDigest 0 0) ∧
    decodeTableWord 8 0b1_1001_00 = some (.wrDigest 1 0) := by decide

/-- A write carries its data, at a window that does not start at 0. -/
theorem test_decode_access :
    decode 0x4000 (.wr 0x4004 4 0x61626300) = .ok (.wrData 0x61626300) ∧
    decode 0x4000 (.wr 0x4000 4 0x00000022) = .ok (.update 2) ∧
    decode 0x4000 (.rd 0x403C 4) = .ok (.rdDigest 7) := by decide

/-- R219, R51: by name. -/
theorem test_decode_refuses :
    decode 0x4000 (.rd 0x4002 4) = .error .misaligned ∧ decode 0x4000 (.wr 0x4004 1 0x61) = .error .badWidth ∧
    decode 0x4000 (.rd 0x403C 8) = .error .straddling ∧ decode 0x4000 (.rd 0x3FFE 4) = .error .straddling ∧
    decode 0x4000 (.rd 0x4040 4) = .error .outsideWindow ∧
    decode 0x4000 (.rd 0x3FFC 4) = .error .outsideWindow := by decide

theorem test_encode : encode 0x4000 (.update 2) = .wr 0x4000 4 0x00000022 ∧
    encode 0x4000 (.rdDigest 7) = .rd 0x403C 4 ∧ encode 0x4000 (.wrRsvd1X 3 5) = .wr 0x401C 4 5 := by decide

/-! ### One step each: commands (95_test_vectors.md section 2.9) -/

theorem test_init_accepted_whatever_the_flags :
    after (exec .init { closedState with errState := true, errCmd := true })
      (fun t => t.statusWord == 0x0000002F && t.queue == []) = true := by decide

theorem test_init_completes :
    let s : State := { pending .init 0 with
      closed := true, dvalid := true, errState := true, data := 0x62000000, len := 5, h := Vector.replicate 8 1 }
    let t := s.complete
    t.statusWord = 0x00000000 ∧ t.h.toList.head? = some 0x6a09e667 ∧ t.len = 0 ∧ t.digestWord 0 = 0 ∧
      t.data = 0x62000000 := by decide

theorem test_update_latches_most_significant_first :
    after (exec (.update 2) { State.reset with data := 0x61626300 })
      (fun t => decide (t.phase = .busy (.update [0x61, 0x62, 0x63])) && t.statusWord == 0x00000004 &&
        t.len == 0) = true := by decide

/-- Section 2.3: the block is compressed in the middle of the four bytes. -/
theorem test_update_completes_a_block :
    let t := ({ xState with phase := .busy (.update [0x41, 0x42, 0x43, 0x44]) } : State).complete
    t.bufcnt = 2 ∧ t.len = 66 ∧ t.h ≠ h0Rom ∧ t.statusWord = 0x00000000 := by decide +kernel

theorem test_finalize_empty_message :
    let t := (pending .finalize 0).complete
    t.statusWord = 0x00000003 ∧ t.digestWord 0 = 0xe3b0c442 ∧ t.digestWord 7 = 0x7852b855 := by decide +kernel

theorem test_finalize_twice :
    after (exec .finalize closedState) (fun t => t.statusWord == 0x0000000B) = true := by decide

theorem test_wrCmd_illegal_at_reset :
    after (exec (.wrCmd 0x00000000) State.reset) (fun t => t.statusWord == 0x00000020) = true := by decide

theorem test_wrCmd_illegal_before_state_error :
    after (exec (.wrCmd 0x00000013) closedState) (fun t => t.statusWord == 0x00000023) = true := by decide

/-! ### One step each: register accesses -/

theorem test_rdCmd : after (exec .rdCmd closedState) (fun t => t.results == [0x00000000]) = true := by decide

theorem test_rdData : after (exec .rdData { State.reset with data := 0x61626364 })
    (fun t => t.results == [0x61626364] && t.statusWord == 0) = true := by decide

theorem test_rdStatus_while_busy : after (exec .rdStatus { pending .init 3 with closed := true })
    (fun t => t.results == [0x00000005] && t.busy) = true := by decide

theorem test_rdStatus_aborted :
    after (exec (.update 0) (openAt (2 ^ 61 - 1))) (fun t => t.statusWord == 0x00000011) = true := by decide

theorem test_rdRsvd0C : after (exec .rdRsvd0C closedState) (fun t => t.results == [0]) = true := by decide

theorem test_rdRsvd1X : after (exec (.rdRsvd1X 1) closedState) (fun t => t.results == [0]) = true := by decide

theorem test_rdDigest : after (exec (.rdDigest 7) closedState) (fun t => t.results == [0x5be0cd19]) = true := by decide

theorem test_rdDigest_before_finalize :
    after (exec (.rdDigest 7) State.reset) (fun t => t.results == [0x00000000]) = true := by decide

theorem test_wrData_while_busy :
    after (exec (.wrData 0x64000000) (pending (.update [0x61]) 2))
      (fun t => t.data == 0x64000000 && decide (t.phase = .busy (.update [0x61]))) = true := by decide

theorem test_wrStatus_ignored : after (exec (.wrStatus 0xFFFFFFFF) closedState)
    (fun t => t.statusWord == 0x00000003) = true := by decide

theorem test_wrRsvd0C : after (exec (.wrRsvd0C 7) closedState) (fun t => decide (t = closedState)) = true := by
  decide

theorem test_wrRsvd1X : after (exec (.wrRsvd1X 2 7) closedState) (fun t => decide (t = closedState)) = true := by
  decide

theorem test_wrDigest_ignored : after (exec (.wrDigest 0 7) closedState)
    (fun t => t.digestWord 0 == 0x6a09e667 && t.results == []) = true := by decide

/-! ### The step around the transactions -/

theorem test_held_transaction_waits :
    after (step { pending .init 1 with queue := [.rd 0x20 4] })
      (fun t => t.queue == [.rd 0x20 4] && t.busy && t.latencyLeft == 0) = true := by decide

theorem test_reset_aborts :
    after (step { pending .finalize 0 with resetLine := [true], data := 5, queue := [.rd 0x20 4] })
      (fun t => t.statusWord == 0 && t.data == 0 && t.queue == [.rd 0x20 4]) = true := by decide

theorem test_step_refuses_misaligned : step (withQueue [.rd 0x02 4]) = .refused .misaligned := rfl

theorem test_step_refuses_narrow : step (withQueue [.wr 0x04 1 0x61]) = .refused .badWidth := rfl

theorem test_step_refuses_straddling : step (withQueue [.rd 0x3C 8]) = .refused .straddling := rfl

theorem test_step_faults_outside : step (withQueue [.rd 0x40 4]) = .fault .outsideWindow := rfl

theorem test_placed_word_runs_after_reset :
    step (State.reset.withFetchWord 32 0x00000001) = exec .init State.reset := rfl

/-! ### The data path (95_test_vectors.md sections 2.2 to 2.8) -/

theorem test_pad_abc : pad (ascii "abc") =
    [0x61, 0x62, 0x63, 0x80] ++ List.replicate 52 0 ++ [0, 0, 0, 0, 0, 0, 0, 0x18] := by decide

theorem test_pad_zero_fill : alignZeros 55 = 0 ∧ alignZeros 56 = 63 ∧ alignZeros 63 = 56 ∧ alignZeros 64 = 55 ∧
    alignZeros 119 = 0 ∧ alignZeros 120 = 63 ∧ (pad (List.replicate 120 0x61)).length = 192 := by decide +kernel

theorem test_s0_s1 : s0 0x6a09e667 = 0xba0cf582 ∧ s1 0x6a09e667 = 0xcfe5da3c ∧ s0 0x510e527f = 0x601c02a8 ∧
    s1 0x510e527f = 0xe3640132 := by decide

theorem test_S0_S1 : S0 0x12345678 = 0x66146474 ∧ S1 0x12345678 = 0x3561abda ∧ S0 0x80000000 = 0x20040200 ∧
    S1 0x80000000 = 0x02100040 := by decide

theorem test_schedule_empty_message :
    let W := schedule (blockAt (pad []) 0)
    W[0] = 0x80000000 ∧ W[15] = 0 ∧ W[18] = 0x00205000 ∧ W[22] = 0x05089542 ∧ W[63] = 0x3b5ec49b := by
  decide +kernel

theorem test_round_1_of_abc :
    roundStep (kAt 1) 0 ⟨0x5d6aebcd, 0x6a09e667, 0xbb67ae85, 0x3c6ef372, 0xfa2a4622, 0x510e527f, 0x9b05688c,
      0x1f83d9ab⟩ =
    ⟨0x5a6ad9ad, 0x5d6aebcd, 0x6a09e667, 0xbb67ae85, 0x78ce7989, 0xfa2a4622, 0x510e527f, 0x9b05688c⟩ := by decide

theorem test_round_63_of_abc :
    permute h0Rom (schedule (blockAt (pad (ascii "abc")) 0)) =
    ⟨0x506e3058, 0xd39a2165, 0x04d24d6c, 0xb85e2ce9, 0x5ef50f24, 0xfb121210, 0x948d25b6, 0x961f4894⟩ := by
  decide +kernel

/-- L1-3, corrected: the two-block message, its digest as DIGEST0..7 written out (R191). -/
theorem test_sha256_two_blocks :
    sha256 (ascii "abcdbcdecdefdefgefghfghighijhijkijkljklmklmnlmnomnopnopq") =
    digestOfReads [0x248d6a61, 0xd20638b8, 0xe5c02693, 0x0c3e6039, 0xa33ce459, 0x64ff2167, 0xf6ecedd4, 0x19db06c1] := by
  decide +kernel

/-- V-PAD, L = 55: one block, no filler. -/
theorem test_sha256_55 : (sha256 (List.replicate 55 0x61)).take 4 = [0x9f, 0x43, 0x90, 0xf8] := by decide +kernel

/-- V-PAD, L = 120: three blocks. -/
theorem test_sha256_120 : (sha256 (List.replicate 120 0x61)).take 4 = [0x2f, 0x3d, 0x33, 0x54] := by decide +kernel

/-- Section 2.3: 'x' 62 times and then "ABCD". -/
theorem test_sha256_split_block :
    (sha256 (List.replicate 62 0x78 ++ ascii "ABCD")).take 4 = [0x65, 0x14, 0x32, 0xf0] := by decide +kernel

/-! ### Assembler (R81 to R83) -/

theorem test_pseudo_absorb :
    absorbProgram (ascii "abcde") =
      [.wrData 0x61626364, .update 3, .wrData 0x65000000, .update 0] := by decide

theorem test_pseudo_hash_empty : hashProgram [] = .init :: .finalize :: rddigestProgram := by decide

/-- R82's exit condition: bit 2 set in all reads but the last, whatever the other bits. -/
theorem test_poll_ends :
    pollEnded [0x00000004, 0x00000005, 0x00000003] = true ∧ pollEnded [0x00000000] = true ∧ pollEnded [] = false ∧
    pollEnded [0x00000004] = false ∧ pollEnded [0x00000000, 0x00000000] = false ∧
    pollEnded [0x00000004, 0x00000000, 0x00000004] = false := by decide

theorem test_poll_from : (pending .finalize 2).pollFrom = [.rdStatus, .rdStatus, .rdStatus] ∧
    closedState.pollFrom = [.rdStatus] := by decide

theorem test_print : printInstr (.update 3) = "upd.4" ∧ printInstr (.wrCmd 0x0000001F) = "wr CMD, 0x0000001F illegal" ∧
    printInstr (.rdDigest 3) = "RD_DIGEST" ∧ assembleInstr (.rdDigest 3) = some "rd DIGEST3" ∧
    assembleInstr (.wrData 0x61626300) = some "wr DATA, 0x61626300" := by decide

/-! ## Witnesses: the hypotheses of each statement can be met, clause by clause, at the edges of their ranges -/

theorem witness_AccessTableDecodes :
    (0x7C#7).toNat % 4 = 0 ∧ (0x00#7).toNat % 4 = 0 ∧ (0x7F#7).toNat % 4 ≠ 0 ∧ (0x01#7).toNat % 4 ≠ 0 := by decide

theorem witness_CommandMapDecodes :
    (0x00000042#32) ∉ legalCommandWords ∧ (0x00000004#32) ∉ legalCommandWords := by decide

theorem witness_IllegalCommandWordRaises : illegalCommand 0x80000003 = true ∧ closedState.busy = false := by decide

theorem witness_DecodeOfEncode : (Instr.wrCmd 0xFFFFFFFF).wf = true ∧ (Instr.wrDigest 7 5).wf = true := by decide

theorem witness_EncodeOfDecode :
    decode 128 (.wr 128 4 0x00000032) = .ok (.update 3) ∧ decode 128 (.rd 188 4) = .ok (.rdDigest 7) := by decide

/-- A misaligned access, a narrow one, and one across each edge of the window. -/
theorem witness_BadAccessRefused :
    let s : State := { withQueue [.rd 66 4] with baseBlock := 1 }
    s.resetNow = false ∧ s.completionDue = false ∧
    (outsideWindow s.engineBase (.rd 66 4) = false ∧ (66 - s.engineBase) % 4 ≠ 0) ∧
    (outsideWindow s.engineBase (.wr 68 1 0) = false ∧ accessWidth (.wr 68 1 0) ≠ 4) ∧
    (outsideWindow s.engineBase (.rd 62 4) = false ∧ 62 < s.engineBase) ∧
    (outsideWindow s.engineBase (.rd 126 4) = false ∧ s.engineBase + 64 < 126 + 4) := by decide

theorem witness_OutsideWindowFaults :
    let s : State := { withQueue [.rd 128 4] with baseBlock := 1 }
    s.queue = .rd 128 4 :: [] ∧ s.resetNow = false ∧ s.completionDue = false ∧
    s.engineBase + 64 ≤ accessAddr (.rd 128 4) ∧
    (accessAddr (.rd 60 4) < s.engineBase ∧ accessAddr (.rd 60 4) + accessWidth (.rd 60 4) ≤ s.engineBase) := by decide

theorem witness_StepRunsDecodedInstruction :
    (withQueue [.rd 8 4]).resetNow = false ∧ (withQueue [.rd 8 4]).completionDue = false ∧
    (withQueue [.rd 8 4]).queue = .rd 8 4 :: [] ∧
    decode (withQueue [.rd 8 4]).engineBase (.rd 8 4) = .ok .rdStatus := by decide

theorem witness_PlacedTableWordRuns : decodeTableWord 32 0x00000032 = some (.update 3) := by decide

theorem witness_CompletionStepTaken : (pending .finalize 0).busy = true ∧ (pending .finalize 0).latencyLeft = 0 ∧
    (pending .finalize 0).resetNow = false := by decide

theorem witness_HeldWhileBusy :
    (heldInstr (.rdDigest 0) = true ∧ (pending .init 2).busy = true) ∧ heldInstr (.wrData 0) = false ∧
    State.reset.busy = false := by decide

theorem witness_BusyEnds :
    let s : State := { pending (.update [0x61]) 3 with queue := [.rd 8 4, .rd 0x20 4], resetLine := [false] }
    s.busy = true ∧ s.NoReset ∧ s.QueueDecodes := by
  refine ⟨rfl, ?_, ?_⟩
  · intro b hb
    simpa using hb
  · intro a ha
    have h : a = .rd 8 4 ∨ a = .rd 0x20 4 := by simpa using ha
    rcases h with rfl | rfl
    · exact ⟨.rdStatus, rfl⟩
    · exact ⟨.rdDigest 0, rfl⟩

theorem witness_IdleKeepsState : closedState.busy = false ∧ closedState.queue = [] ∧ closedState.resetNow = false := by
  decide

/-- Reset while BUSY with a held transaction at the port. -/
theorem witness_ResetEventAborts :
    let s : State := { pending .finalize 0 with resetLine := [true, false], queue := [.rd 0x20 4] }
    s.resetNow = true ∧ s.tick.takeReset.resetNow = false ∧ s.queue = .rd 0x20 4 :: [] ∧
      decode s.engineBase (.rd 0x20 4) = .ok (.rdDigest 0) := by decide

theorem witness_ResetEqualsInitButData : closedState.busy = false ∧ (pending .init 0).busy = true := by decide

theorem witness_ReadStatusPacksFlags :
    (State.reset.errState = false ∧ State.reset.errLength = false ∧ State.reset.errCmd = false ∧
      State.reset.closed = false ∧ State.reset.dvalid = false ∧ State.reset.busy = false) ∧
    ((pending .init 0).closed = false ∧ (pending .init 0).dvalid = false ∧ (pending .init 0).busy = true) ∧
    (closedState.closed = true ∧ closedState.dvalid = true ∧ closedState.busy = false) ∧
    (let s : State := { State.reset with closed := true, errLength := true }
     s.closed = true ∧ s.dvalid = false ∧ s.busy = false ∧ s.errState = false ∧ s.errLength = true ∧
       s.errCmd = false) := by decide

theorem witness_ReadDigest :
    (closedState.busy = false ∧ closedState.closed = true ∧ closedState.dvalid = true) ∧
    (State.reset.busy = false ∧ ¬(State.reset.closed = true ∧ State.reset.dvalid = true)) ∧
    (pending .finalize 1).busy = true := by decide

theorem witness_ReadsHaveNoSideEffect :
    (readInstr .rdStatus = true ∧ heldInstr .rdStatus = false) ∧
    (readInstr (.rdDigest 7) = true ∧ closedState.busy = false) := by decide

/-- Two Open engines that differ in everything hidden: two idle ones, and two busy ones with different pending commands. -/
theorem witness_HiddenStateNotReadable :
    (let s : State := State.reset
     let t : State := { abcState with h := Vector.replicate 8 7, round := 9, freeCount := 4 }
     readInstr (.rdDigest 0) = true ∧ t ≠ s ∧
     t = { s with
       h := t.h, work := t.work, w := t.w, round := t.round, buf := t.buf, bufcnt := t.bufcnt, len := t.len,
       phase := t.phase, latencyLeft := t.latencyLeft, freeCount := t.freeCount } ∧
     t.busy = s.busy ∧ (s.closed = true ∧ s.dvalid = true → t.h = s.h) ∧
     after (exec (.rdDigest 0) s) (fun _ => true) = true ∧ after (exec (.rdDigest 0) t) (fun _ => true) = true) ∧
    (let s : State := pending (.update [0x61]) 2
     let t : State := pending .finalize 5
     readInstr .rdStatus = true ∧ t.phase ≠ s.phase ∧
     t = { s with
       h := t.h, work := t.work, w := t.w, round := t.round, buf := t.buf, bufcnt := t.bufcnt, len := t.len,
       phase := t.phase, latencyLeft := t.latencyLeft, freeCount := t.freeCount } ∧
     t.busy = s.busy ∧ (s.closed = true ∧ s.dvalid = true → t.h = s.h) ∧
     after (exec .rdStatus s) (fun _ => true) = true ∧ after (exec .rdStatus t) (fun _ => true) = true) := by decide

theorem witness_InitCommand : closedState.busy = false ∧ State.reset.busy = false := by decide

/-- The first byte of a message, and four bytes that bring LEN to 2^61 − 1. -/
theorem witness_UpdateCommand :
    (State.reset.busy = false ∧ State.reset.closed = false ∧
      State.reset.len.toNat + ((0 : BitVec 2).toNat + 1) ≤ 2 ^ 61 - 1) ∧
    ((openAt (2 ^ 61 - 5)).busy = false ∧ (openAt (2 ^ 61 - 5)).closed = false ∧
      (openAt (2 ^ 61 - 5)).len.toNat + ((3 : BitVec 2).toNat + 1) = 2 ^ 61 - 1) ∧
    (0x61626300#32).toNat / 256 ^ (3 - (2 : BitVec 2).toNat) =
      (0x616263FF#32).toNat / 256 ^ (3 - (2 : BitVec 2).toNat) := by decide

theorem witness_UpdateWhileClosed : closedState.busy = false ∧ closedState.closed = true := by decide

theorem witness_FinalizeWhileClosed : closedState.busy = false ∧ closedState.closed = true ∧ closedState.dvalid = true ∧
    closedState.errLength = false ∧ closedState.errCmd = false := by decide

theorem witness_UpdateBeyondLimit :
    ((openAt (2 ^ 61 - 1)).busy = false ∧ (openAt (2 ^ 61 - 1)).closed = false ∧
      (openAt (2 ^ 61 - 1)).len.toNat + ((0 : BitVec 2).toNat + 1) > 2 ^ 61 - 1) ∧
    ((openAt (2 ^ 61 - 3)).busy = false ∧ (openAt (2 ^ 61 - 3)).closed = false ∧
      (openAt (2 ^ 61 - 3)).len.toNat + ((1 : BitVec 2).toNat + 1) = 2 ^ 61 - 1) := by decide

theorem witness_FinalizeCommand : abcState.busy = false ∧ abcState.closed = false ∧
    (openAt 55).bufcnt.toNat = 55 ∧ (openAt 56).bufcnt.toNat = 56 := by decide

/-- One state and word for each branch. -/
theorem witness_CommandWriteDispatches :
    State.reset.busy = false ∧ closedState.busy = false ∧
    illegalCommand 0x00000011 = true ∧
    (illegalCommand 0x00000001 = false ∧ (0x00000001#32).toNat % 16 = 1) ∧
    (illegalCommand 0x00000002 = false ∧ (0x00000002#32).toNat % 16 ≠ 1 ∧ closedState.closed = true) ∧
    (illegalCommand 0x00000003 = false ∧ (0x00000003#32).toNat % 16 = 3 ∧ State.reset.closed = false) ∧
    (illegalCommand 0x00000032 = false ∧ (openAt (2 ^ 61 - 4)).closed = false ∧ (openAt (2 ^ 61 - 4)).busy = false ∧
      (openAt (2 ^ 61 - 4)).len.toNat + ((0x00000032#32).toNat / 16 % 4 + 1) > 2 ^ 61 - 1) ∧
    ¬(openAt (2 ^ 61 - 5)).len.toNat + ((0x00000032#32).toNat / 16 % 4 + 1) > 2 ^ 61 - 1 ∧
    (pending .init 0).busy = true := by decide

theorem witness_ErrorPriority :
    (after (exec (.wrCmd 0x00000013) closedState) (fun _ => true) = true ∧ illegalCommand 0x00000013 = true) ∧
    (after (exec (.wrCmd 0x00000003) closedState) (fun _ => true) = true ∧ illegalCommand 0x00000003 = false ∧
      0x00000003#32 ≠ 0x00000001 ∧ closedState.closed = true) ∧
    (after (exec (.wrCmd 0x00000002) (openAt (2 ^ 61 - 1))) (fun _ => true) = true ∧
      illegalCommand 0x00000002 = false ∧ (openAt (2 ^ 61 - 1)).closed = false ∧
      0x00000002#32 &&& 0xFFFFFFCF = 0x00000002 ∧
      (openAt (2 ^ 61 - 1)).len.toNat + ((0x00000002#32).toNat / 16 + 1) > 2 ^ 61 - 1) ∧
    (after (exec (.wrCmd 0x00000001) closedState) (fun _ => true) = true ∧ illegalCommand 0x00000001 = false) := by
  decide

/-- An illegal word, a StateError and a LengthOverflow leave BUSY 0, in either spelling; an UPDATE with room sets it. -/
theorem witness_ErrorsArePrecise :
    (heldInstr .finalize = true ∧ readInstr .finalize = false ∧ closedState.busy = false ∧
      after (exec .finalize closedState) (fun t => !t.busy) = true) ∧
    (heldInstr (.update 0) = true ∧ readInstr (.update 0) = false ∧ (openAt (2 ^ 61 - 1)).busy = false ∧
      after (exec (.update 0) (openAt (2 ^ 61 - 1))) (fun t => !t.busy) = true) ∧
    after (exec (.wrCmd 0x00000013) closedState) (fun t => !t.busy) = true ∧
    after (exec (.wrCmd 0x00000003) closedState) (fun t => !t.busy) = true ∧
    after (exec (.wrCmd 0x00000002) (openAt (2 ^ 61 - 1))) (fun t => !t.busy) = true ∧
    after (exec (.update 3) State.reset) (fun t => t.busy) = true := by decide

theorem witness_AcceptanceChangesOnlySequencer :
    closedState.busy = false ∧ after (exec .init closedState) (fun t => t.busy) = true := by decide

/-- A reset event, the completion of an INIT, and a step that is neither. -/
theorem witness_ErrorBitsSticky :
    (let s : State := { closedState with resetLine := [true], errState := true }
     after (step s) (fun _ => true) = true ∧ s.resetNow = true) ∧
    (let s : State := { pending .init 0 with errCmd := true }
     after (step s) (fun _ => true) = true ∧ s.completionDue = true ∧ s.phase = .busy .init) ∧
    (let s : State := { withQueue [.wr 0 4 0x00000003] with errLength := true }
     after (step s) (fun _ => true) = true ∧ s.resetNow = false ∧ s.completionDue = false ∧ s.errLength = true) := by
  decide

theorem witness_TransactionFrame : after (exec (.wrDigest 7 1) closedState) (fun _ => true) = true ∧
    readInstr (.wrDigest 7 1) = false ∧ (∀ v, Instr.wrDigest 7 1 ≠ .wrData v) ∧
    (∀ n, Instr.wrDigest 7 1 ≠ .update n) ∧ (∀ v, Instr.wrDigest 7 1 ≠ .wrCmd v) ∧
    Instr.wrDigest 7 1 ≠ .init ∧ Instr.wrDigest 7 1 ≠ .finalize :=
  ⟨by decide, by decide, nofun, nofun, nofun, nofun, nofun⟩

theorem witness_HashStateWriters : after (step (withQueue [.wr 0 4 1])) (fun _ => true) = true ∧
    (withQueue [.wr 0 4 1]).resetNow = false ∧ (withQueue [.wr 0 4 1]).completionDue = false := by decide

theorem witness_abc_represents : abcState.Represents (ascii "abc") := by
  constructor <;> decide

theorem witness_reset_represents : State.reset.Represents [] := by constructor <;> decide

/-- A pending UPDATE in an Open engine that holds three bytes, about to complete. -/
theorem witness_StepKeepsInv :
    let s : State := { abcState with phase := .busy (.update [0x64]) }
    s.Inv ∧ s.BufferInv ∧ after (step s) (fun t => t.len == 4) = true := by
  refine ⟨⟨by decide, ?_, by decide⟩, fun _ => ⟨ascii "abc", ?_⟩, by decide⟩
  · exact ⟨rfl, by decide, by decide, by decide⟩
  · exact ⟨witness_abc_represents.1, witness_abc_represents.2, witness_abc_represents.3, witness_abc_represents.4⟩

theorem witness_StepKeepsBufferInv :
    let s : State := { abcState with phase := .busy .finalize }
    s.Inv ∧ s.BufferInv ∧ after (step s) (fun t => t.closed) = true :=
  ⟨⟨by decide, rfl, by decide⟩, fun _ => ⟨ascii "abc",
    ⟨witness_abc_represents.1, witness_abc_represents.2, witness_abc_represents.3, witness_abc_represents.4⟩⟩, rfl⟩

theorem witness_DigestStable :
    let s : State := { closedState with queue := [.wr 0 4 0x00000003] }
    s.Inv ∧ s.closed = true ∧ after (step s) (fun t => t.errState) = true ∧ s.resetNow = false ∧
      ¬(s.completionDue = true ∧ s.phase = .busy .init) :=
  ⟨⟨by decide, trivial, by decide⟩, rfl, by decide, rfl, by decide⟩

/-- Two Open engines that differ in a..h, t and the bytes past BUFCNT; each of the three outcomes of a step. -/
theorem witness_UnspecifiedNeverRead :
    let t (s : State) : State := { s with round := 9, buf := s.buf.set 3 0xFF }
    abcState.Inv ∧ abcState.Agree (t abcState) ∧ t abcState ≠ abcState ∧
    after (step abcState) (fun _ => true) = true ∧
    (let u : State := { abcState with queue := [.rd 0x40 4] }
     u.Inv ∧ u.Agree (t u) ∧ step u = .fault .outsideWindow) ∧
    (let u : State := { abcState with queue := [.rd 0x02 4] }
     u.Inv ∧ u.Agree (t u) ∧ step u = .refused .misaligned) :=
  ⟨⟨by decide, trivial, by decide⟩, ⟨by decide, by decide⟩, by decide, by decide,
    ⟨⟨by decide, trivial, by decide⟩, ⟨by decide, by decide⟩, rfl⟩,
    ⟨by decide, trivial, by decide⟩, ⟨by decide, by decide⟩, rfl⟩

theorem witness_bit_indices : 0 < 32 ∧ 31 < 32 := by decide

theorem witness_ScheduleRecurrence : 0 < 16 ∧ 15 < 16 ∧ (16 < 64 ∧ 16 ≤ 16) ∧ (63 < 64 ∧ 16 ≤ 63) := by decide

theorem witness_CompressBlockAccumulates : 0 < 8 ∧ 7 < 8 := by decide

theorem witness_LengthFieldBigEndian : 0 ≤ 2 ^ 61 - 1 ∧ 2 ^ 61 - 1 ≤ 2 ^ 61 - 1 := by decide

theorem witness_AlignZerosLeast : (0 + 1 + 55) % 64 = 56 ∧ 55 % 64 = 55 ∧ 120 % 64 = 56 ∧ 127 % 64 = 63 := by decide

/-- The first and the last zero byte of pad("abc"). -/
theorem witness_PadLayout :
    ((ascii "abc").length + 1 ≤ 4 ∧ 4 < (ascii "abc").length + 1 + alignZeros (ascii "abc").length) ∧
    ((ascii "abc").length + 1 ≤ 55 ∧ 55 < (ascii "abc").length + 1 + alignZeros (ascii "abc").length) := by decide

theorem witness_TailAgreesWithPad : State.reset.Represents [] ∧ abcState.Represents (ascii "abc") :=
  ⟨witness_reset_represents, witness_abc_represents⟩

theorem witness_SerializeLayout : 7 < 8 ∧ 3 < 4 ∧ 0 < 8 ∧ 0 < 4 := by decide

theorem witness_AbsorbByte :
    xState.bufcnt ≠ 63 ∧ ({ xState with bufcnt := 63 } : State).bufcnt = 63 := by decide

/-- BUFCNT = 62: one byte stays short of the block, two bytes complete it. -/
theorem witness_UpdateCompletesAtMostOneBlock :
    ([0x41] : List Byte).length ≤ 4 ∧ xState.bufcnt.toNat + ([0x41] : List Byte).length < 64 ∧
    64 ≤ xState.bufcnt.toNat + ([0x41, 0x42] : List Byte).length ∧
    64 ≤ xState.bufcnt.toNat + ([0x41, 0x42, 0x43, 0x44] : List Byte).length := by decide

theorem witness_ChunksExtendMessage : abcState.Represents (ascii "abc") ∧
    (ascii "abc").length + ([[0x64], [0x65, 0x66]] : List (List Byte)).flatten.length ≤ 2 ^ 61 - 1 :=
  ⟨witness_abc_represents, by decide⟩

theorem witness_SplitInvariance : State.reset.Represents [] ∧
    ([[0x61], [0x62, 0x63]] : List (List Byte)).flatten = ([[0x61, 0x62, 0x63]] : List (List Byte)).flatten ∧
    ([[0x61], [0x62, 0x63]] : List (List Byte)).flatten.length ≤ 2 ^ 61 - 1 :=
  ⟨witness_reset_represents, by decide, by decide⟩

theorem witness_FinalizeGivesSha256 :
    let s : State := { abcState with phase := .busy .finalize }
    s.Represents (ascii "abc") ∧ s.phase = .busy .finalize :=
  ⟨⟨witness_abc_represents.1, witness_abc_represents.2, witness_abc_represents.3, witness_abc_represents.4⟩, rfl⟩

/-- P6's program, from a state that is Closed with an error. -/
theorem witness_PushedMessageHashes :
    let pushes : List (BitVec 2 × Word) := [(0, 0x61000000), (1, 0x62630000)]
    let s : State := { closedState with
      errState := true
      queue := programAccesses 0
        ([.init] ++ pushes.flatMap (fun p => pushProgram p.1 p.2) ++ [.finalize] ++ rddigestProgram) }
    (pushes.flatMap (fun p => latchBytes p.1 p.2)) = ascii "abc" ∧
    (pushes.flatMap (fun p => latchBytes p.1 p.2)).length ≤ 2 ^ 61 - 1 ∧ s.NoReset ∧ s.engineBase = 0 :=
  ⟨by decide, by decide, nofun, rfl⟩

theorem witness_HashProgramGivesSha256 :
    let s : State := { pending .finalize 2 with queue := programAccesses 0 (hashProgram (ascii "abcde")) }
    (ascii "abcde").length ≤ 2 ^ 61 - 1 ∧ s.NoReset ∧ s.queue = programAccesses s.engineBase (hashProgram (ascii "abcde")) :=
  ⟨by decide, nofun, rfl⟩

/-- A poll while two steps of latency are left, and one while no command is pending. -/
theorem witness_PollEndsWhenIdle :
    (let s : State := { pending .finalize 2 with queue := programAccesses 0 (pollProgram 2) ++ [.rd 0x20 4] }
     s.NoReset ∧ s.queue = programAccesses s.engineBase (pollProgram 2) ++ [.rd 0x20 4] ∧ s.busyReads = 2) ∧
    (let s : State := { closedState with queue := programAccesses 0 (pollProgram 0) }
     s.NoReset ∧ s.queue = programAccesses s.engineBase (pollProgram 0) ++ [] ∧ s.busyReads = 0) :=
  ⟨⟨nofun, rfl, rfl⟩, nofun, rfl, rfl⟩

end Sys2Proof.Tests
end

section
/-! The reset state (10_state.md R44): the views a read takes of STATUS and DIGESTi, and the values after reset. -/

namespace Sys2Proof.Machine

/-! ### Views of the flags, for any state -/

/-- STATUS reads 0 when no flag is set and no command is pending (R35, R43, R214). -/
theorem statusWord_eq_zero {s : State} (hclosed : s.closed = false) (hdvalid : s.dvalid = false)
    (hbusy : s.busy = false) (hstate : s.errState = false) (hlength : s.errLength = false)
    (hcmd : s.errCmd = false) : s.statusWord = 0 := by
  simp [State.statusWord, flagBit, hclosed, hdvalid, hbusy, hstate, hlength, hcmd]

/-- DIGESTi reads 0 when CLOSED = 0, whatever H holds (R42). -/
theorem digestWord_of_open {s : State} (h : s.closed = false) (i : BitVec 3) : s.digestWord i = 0 := by
  simp [State.digestWord, h]

/-! ### The reset state -/

@[simp] theorem reset_statusWord : State.reset.statusWord = 0 := statusWord_eq_zero rfl rfl rfl rfl rfl rfl

@[simp] theorem reset_digestWord (i : BitVec 3) : State.reset.digestWord i = 0 := digestWord_of_open rfl i

/-- Settles O15: H and the ROMs are R29's and R30's constants as written, and STATUS and the digest words read 0 because every
flag is clear. -/
theorem resetValues : Obligations.ResetValues := by
  unfold Obligations.ResetValues
  refine ⟨rfl, rfl, rfl, rfl, rfl, reset_statusWord, reset_digestWord, rfl, rfl, ?rows⟩
  case rows => exact ⟨rfl, rfl, rfl, rfl, rfl, rfl, rfl, rfl⟩

end Sys2Proof.Machine
end

section
/-! The encoding (30_encoding.md): the command opcode map, illegal command words, and the access decode table. -/

namespace Sys2Proof

/-! ### The command opcode map (R74) -/

/-- A word decodes only to an instruction that encodes to it, so a command decodes from its own word and from no
other. -/
theorem decodeCommand_eq_iff {i : Instr} {w : Word} (hw : encodeData i = some w) (hi : decodeCommand w = i) (v : Word) :
    decodeCommand v = i ↔ v = w := by
  constructor
  · intro h
    have hv : encodeData i = some v := by rw [← h, encodeData_decodeCommand]
    exact Option.some.inj (hv.symm.trans hw)
  · rintro rfl
    exact hi

theorem decodeCommand_eq_init_iff (v : Word) : decodeCommand v = .init ↔ v = 0x00000001 :=
  decodeCommand_eq_iff rfl (by decide) v

theorem decodeCommand_eq_finalize_iff (v : Word) : decodeCommand v = .finalize ↔ v = 0x00000003 :=
  decodeCommand_eq_iff rfl (by decide) v

/-- UPDATE's word, as R74 and R75 give it: OP = 2 and NBM1 in bits 5:4. -/
def updateWord (nbm1 : BitVec 2) : Word := 0x00000002#32 ||| (nbm1.setWidth 32 <<< 4)

theorem decodeCommand_updateWord : ∀ nbm1 : BitVec 2, decodeCommand (updateWord nbm1) = .update nbm1 := by
  decide

theorem decodeCommand_eq_update_iff (v : Word) (nbm1 : BitVec 2) :
    decodeCommand v = .update nbm1 ↔ v = updateWord nbm1 :=
  decodeCommand_eq_iff rfl (decodeCommand_updateWord nbm1) v

theorem updateWord_and_mask : ∀ nbm1 : BitVec 2, updateWord nbm1 &&& 0xFFFFFFCF = 0x00000002 := by
  decide

/-- The bits that UPDATE's mask leaves out of a word are its NBM1 field in place. -/
theorem and_nbm1_bits (v : Word) : v &&& 0x00000030#32 = (cmdNbm1 v).setWidth 32 <<< 4 := by
  have hmask : ∀ i < 32, (0x00000030#32).getLsbD i = (decide (4 ≤ i) && decide (i < 6)) := by decide
  apply BitVec.eq_of_getLsbD_eq
  intro i hi
  rw [BitVec.getLsbD_and, hmask i hi]
  by_cases h : 4 ≤ i
  · have hfield : i - 4 < 2 ↔ i < 6 := by omega
    simp [cmdNbm1, h, hi, hfield, Nat.add_sub_cancel' h, Bool.and_comm]
  · simp [h, Nat.not_le.1 h]

/-- UPDATE's row of R74: the words its pattern and mask match are its four words. -/
theorem and_mask_eq_iff (v : Word) : v &&& 0xFFFFFFCF = 0x00000002 ↔ ∃ nbm1, v = updateWord nbm1 := by
  constructor
  · intro h
    refine ⟨cmdNbm1 v, ?_⟩
    calc v = v &&& (0xFFFFFFCF ||| 0x00000030#32) := (BitVec.and_allOnes (x := v)).symm
      _ = v &&& 0xFFFFFFCF ||| v &&& 0x00000030#32 := BitVec.and_or_distrib_left
      _ = updateWord (cmdNbm1 v) := by rw [h, and_nbm1_bits]; rfl
  · rintro ⟨nbm1, rfl⟩
    exact updateWord_and_mask nbm1

/-- Settles O2: a command decodes from the word it encodes to and from no other, UPDATE's mask leaves its NBM1 field free,
and R77's illegal words are those outside R74's list. -/
theorem commandMapDecodes : Obligations.CommandMapDecodes := by
  unfold Obligations.CommandMapDecodes
  refine ⟨decodeCommand_eq_init_iff, ?update, decodeCommand_eq_finalize_iff, decodeCommand_updateWord 0,
    decodeCommand_updateWord 1, decodeCommand_updateWord 2, decodeCommand_updateWord 3, fun _ => rfl,
    illegalCommand_iff_not_mem, ?illegal⟩
  case update =>
    intro v
    rw [and_mask_eq_iff]
    exact exists_congr (decodeCommand_eq_update_iff v)
  case illegal =>
    intro v h
    exact decodeCommand_illegal ((illegalCommand_iff_not_mem v).2 h)

end Sys2Proof

namespace Sys2Proof.Machine

/-! ### Writing an illegal command word (R77, R211) -/

theorem exec_wrCmd (v : Word) (s : State) : exec (.wrCmd v) s = finishUnlessBusy s (s.issueWord v).retire := rfl

theorem issueWord_illegal {v : Word} (h : illegalCommand v = true) (s : State) :
    s.issueWord v = s.raise .illegalCommand := by
  simp [State.issueWord, h]

theorem exec_wrCmd_illegal {v : Word} {s : State} (hv : illegalCommand v = true) (hs : s.busy = false) :
    exec (.wrCmd v) s = .next (s.raise .illegalCommand).retire := by
  rw [exec_wrCmd, finishUnlessBusy_idle _ hs, issueWord_illegal hv]

@[simp] theorem statusWord_retire (s : State) : s.retire.statusWord = s.statusWord := rfl

/-- IllegalCommand sets bit 5 of STATUS and no other (R243). -/
theorem statusWord_raise_illegalCommand (s : State) :
    (s.raise .illegalCommand).statusWord = s.statusWord ||| 0x00000020 := by
  have hbit : flagBit true 5 = flagBit s.errCmd 5 ||| 0x00000020 := by cases s.errCmd <;> rfl
  simp only [State.statusWord, raise_illegalCommand_closed, raise_illegalCommand_dvalid, busy_raise,
    raise_illegalCommand_errState, raise_illegalCommand_errLength, raise_illegalCommand_errCmd, hbit, BitVec.or_assoc]

/-- Settles O3: R77's grounds are the model's check in arithmetic, and an idle engine answers an illegal word with
IllegalCommand alone, before any check of the state. -/
theorem illegalCommandWordRaises : Obligations.IllegalCommandWordRaises := by
  unfold Obligations.IllegalCommandWordRaises
  have hzero : illegalCommand 0 = true := by decide
  refine ⟨illegalCommand_iff, hzero, ?raises, ?atReset⟩
  case raises =>
    intro v s hv hs
    exact exec_wrCmd_illegal hv hs
  case atReset =>
    refine ⟨_, exec_wrCmd_illegal hzero rfl, ?_⟩
    rw [statusWord_retire, statusWord_raise_illegalCommand, reset_statusWord]
    rfl

end Sys2Proof.Machine

namespace Sys2Proof

/-! ### The access decode table (R72) -/

/-- A key that matches a row decodes to that row's instruction. -/
theorem decodeKey_of_lookup {key : BitVec 7} {op : AccessOp} (h : lookupKey key = some op) (d : Word) :
    decodeKey key d = .ok (buildInstr op key d) := by
  simp [decodeKey, h]

/-- A key that matches no row is misaligned (R78). -/
theorem decodeKey_of_misaligned {key : BitVec 7} (h : key.toNat % 4 ≠ 0) (d : Word) :
    decodeKey key d = .error .misaligned := by
  simp [decodeKey, (lookupKey_eq_none_iff key).2 h]

/-- A key of a row that covers several: the row's pattern with its field in the bits from 2 up, which
R72's masks leave free. -/
def fieldKey (pattern : BitVec 7) {n : Nat} (field : BitVec n) : BitVec 7 := pattern ||| (field.setWidth 7 <<< 2)

theorem lookupKey_rsvd1X : ∀ w : BitVec 2,
    (lookupKey (fieldKey 0x10 w) = some .rdRsvd1X ∧ keyRsvdWord (fieldKey 0x10 w) = w) ∧
    (lookupKey (fieldKey 0x50 w) = some .wrRsvd1X ∧ keyRsvdWord (fieldKey 0x50 w) = w) := by
  decide

theorem lookupKey_digest : ∀ i : BitVec 3,
    (lookupKey (fieldKey 0x20 i) = some .rdDigest ∧ keyDigestIndex (fieldKey 0x20 i) = i) ∧
    (lookupKey (fieldKey 0x60 i) = some .wrDigest ∧ keyDigestIndex (fieldKey 0x60 i) = i) := by
  decide

theorem decodeKey_rsvd1X (w : BitVec 2) (d : Word) :
    decodeKey (fieldKey 0x10 w) d = .ok (.rdRsvd1X w) ∧ decodeKey (fieldKey 0x50 w) d = .ok (.wrRsvd1X w d) := by
  obtain ⟨⟨hr, hrw⟩, hw, hww⟩ := lookupKey_rsvd1X w
  simp only [decodeKey_of_lookup hr, decodeKey_of_lookup hw, buildInstr, hrw, hww, and_self]

theorem decodeKey_digest (i : BitVec 3) (d : Word) :
    decodeKey (fieldKey 0x20 i) d = .ok (.rdDigest i) ∧ decodeKey (fieldKey 0x60 i) d = .ok (.wrDigest i d) := by
  obtain ⟨⟨hr, hri⟩, hw, hwi⟩ := lookupKey_digest i
  simp only [decodeKey_of_lookup hr, decodeKey_of_lookup hw, buildInstr, hri, hwi, and_self]

/-- Settles O1: each row decodes by the row its keys match, and the rows partition the aligned keys. -/
theorem accessTableDecodes : Obligations.AccessTableDecodes := by
  unfold Obligations.AccessTableDecodes
  refine ⟨fun d => ⟨?rdCmd, ?rdData, ?rdStatus, ?rdRsvd0C, fun w => (decodeKey_rsvd1X w d).1,
    fun i => (decodeKey_digest i d).1, ?wrCmd, ?wrData, ?wrStatus, ?wrRsvd0C, fun w => (decodeKey_rsvd1X w d).2,
    fun i => (decodeKey_digest i d).2⟩, ?aligned, ?misaligned⟩
  case rdCmd => exact decodeKey_of_lookup (op := .rdCmd) (by decide) d
  case rdData => exact decodeKey_of_lookup (op := .rdData) (by decide) d
  case rdStatus => exact decodeKey_of_lookup (op := .rdStatus) (by decide) d
  case rdRsvd0C => exact decodeKey_of_lookup (op := .rdRsvd0C) (by decide) d
  case wrCmd => exact decodeKey_of_lookup (op := .wrCmd) (by decide) d
  case wrData => exact decodeKey_of_lookup (op := .wrData) (by decide) d
  case wrStatus => exact decodeKey_of_lookup (op := .wrStatus) (by decide) d
  case wrRsvd0C => exact decodeKey_of_lookup (op := .wrRsvd0C) (by decide) d
  case aligned =>
    intro key h
    rw [keyRows_partition, if_pos h]
  case misaligned =>
    intro key h
    refine ⟨List.length_eq_zero_iff.1 ?_, decodeKey_of_misaligned h⟩
    rw [keyRows_partition, if_neg h]

end Sys2Proof
end

section
/-! The padder (40_padder.md): the length field, the zero fill, the padded message, and the tail the engine builds from what
it has absorbed. -/

namespace Sys2Proof.Machine

/-! ### The length field (R101) -/

/-- The byte at bit n is the next base-256 digit of what stands from bit n up. -/
theorem mul_256_add_byte_at {w : Nat} (v : BitVec w) (n : Nat) :
    256 * (v.toNat / 2 ^ (n + 8)) + (v.extractLsb' n 8).toNat = v.toNat / 2 ^ n := by
  rw [BitVec.extractLsb'_toNat, Nat.shiftRight_eq_div_pow, pow_add, ← Nat.div_div_eq_div_mul]
  exact Nat.div_add_mod _ 256

/-- The bytes of a u64, read most significant first, spell it (R11). -/
theorem foldl_be64bytes (v : BitVec 64) :
    (be64bytes v).foldl (fun acc b => 256 * acc + b.toNat) 0 = v.toNat := by
  have htop : v.toNat / 2 ^ (56 + 8) = 0 := Nat.div_eq_of_lt v.isLt
  have hfirst := mul_256_add_byte_at v 56
  rw [htop] at hfirst
  simp only [be64bytes, List.foldl_cons, List.foldl_nil]
  rw [hfirst, mul_256_add_byte_at v 48, mul_256_add_byte_at v 40, mul_256_add_byte_at v 32,
    mul_256_add_byte_at v 24, mul_256_add_byte_at v 16, mul_256_add_byte_at v 8, mul_256_add_byte_at v 0, pow_zero,
    Nat.div_one]

@[simp] theorem length_lengthField (L : Nat) : (lengthField L).length = 8 := rfl

/-- Settles O48: the field is read digit by digit, and 8 × L fits a u64 at every legal length. -/
theorem lengthFieldBigEndian : Obligations.LengthFieldBigEndian := by
  unfold Obligations.LengthFieldBigEndian
  refine ⟨fun L hL => ?legal, by decide, by decide⟩
  case legal =>
    have hfit : 8 * L ≤ 2 ^ 64 - 8 := by omega
    refine ⟨length_lengthField L, ?_, hfit⟩
    calc (lengthField L).foldl (fun acc b => 256 * acc + b.toNat) 0
        = (BitVec.ofNat 64 (8 * L)).toNat := foldl_be64bytes _
      _ = 8 * L := by rw [BitVec.toNat_ofNat, Nat.mod_eq_of_lt (by omega)]

/-! ### The zero fill (R102) -/

/-- R102's formula, in the integers. -/
theorem natCast_alignZeros (L : Nat) : (alignZeros L : Int) = (55 - (L : Int)) % 64 :=
  Int.toNat_of_nonneg (Int.emod_nonneg _ (by decide))

theorem alignZeros_lt (L : Nat) : alignZeros L < 64 := by
  have := natCast_alignZeros L
  omega

/-- The message, the byte 0x80 and the zeros leave 8 bytes of the block. -/
theorem add_alignZeros_mod (L : Nat) : (L + 1 + alignZeros L) % 64 = 56 := by
  have := natCast_alignZeros L
  omega

/-- Any fill that aligns is `align_zeros`, up to whole blocks of zeros. -/
theorem alignZeros_eq_mod {L z : Nat} (h : (L + 1 + z) % 64 = 56) : alignZeros L = z % 64 := by
  have hlt := alignZeros_lt L
  have hmod := add_alignZeros_mod L
  omega

/-- The zero fill depends on the length modulo 64 alone. -/
theorem alignZeros_mod (L : Nat) : alignZeros (L % 64) = alignZeros L := by
  have hmod := add_alignZeros_mod L
  rw [alignZeros_eq_mod (L := L % 64) (z := alignZeros L) (by omega), Nat.mod_eq_of_lt (alignZeros_lt L)]

/-- Settles O49: the fill that leaves 8 bytes is unique modulo 64, and `align_zeros` is the one below 64. -/
theorem alignZerosLeast : Obligations.AlignZerosLeast := by
  unfold Obligations.AlignZerosLeast
  intro L
  have hmod := add_alignZeros_mod L
  have hlt := alignZeros_lt L
  refine ⟨natCast_alignZeros L, hlt, hmod, ?least, ?_, ?_, ?_⟩
  case least =>
    intro z hz
    rw [alignZeros_eq_mod hz]
    exact Nat.mod_le z 64
  all_goals
    intro h
    omega

/-! ### The padded message (R103, R104) -/

/-- What follows L bytes of message, or of a partial block, in a padded string: 0x80, the zeros that align, and the
length field of a message of n bytes (R103, R107). -/
def padding (L n : Nat) : List Byte := [0x80] ++ List.replicate (alignZeros L) 0 ++ lengthField n

theorem pad_eq (M : List Byte) : pad M = M ++ padding M.length M.length := by
  simp only [pad, padding, List.append_assoc]

theorem tailBytes_eq (buf : Block) (bufcnt len : Nat) :
    tailBytes buf bufcnt len = buf.toList.take bufcnt ++ padding bufcnt len := by
  simp only [tailBytes, padding, List.append_assoc]

@[simp] theorem length_padding (L n : Nat) : (padding L n).length = 9 + alignZeros L := by
  simp only [padding, List.length_append, List.length_cons, List.length_nil, List.length_replicate, length_lengthField]
  omega

/-- The padding depends on the length before it modulo 64 alone. -/
theorem padding_mod (L n : Nat) : padding (L % 64) n = padding L n := by
  rw [padding, padding, alignZeros_mod]

theorem byteAt_padding_zero (L n : Nat) : byteAt (padding L n) 0 = 0x80 := rfl

theorem byteAt_padding_of_zeros {L k : Nat} (n : Nat) (h1 : 1 ≤ k) (h2 : k < 1 + alignZeros L) :
    byteAt (padding L n) k = 0 := by
  have hzeros : k - 1 < (List.replicate (alignZeros L) (0 : Byte)).length := by
    rw [List.length_replicate]; omega
  calc byteAt (padding L n) k
      = byteAt (List.replicate (alignZeros L) 0 ++ lengthField n) (k - 1) := byteAt_append_right (P := [0x80]) h1
    _ = 0 := by rw [byteAt_append_left hzeros, byteAt_eq_getElem hzeros, List.getElem_replicate]

theorem drop_padding (L n : Nat) : (padding L n).drop (1 + alignZeros L) = lengthField n :=
  List.drop_left' (by simp [Nat.add_comm])

theorem length_pad (M : List Byte) : (pad M).length = M.length + 9 + alignZeros M.length := by
  rw [pad_eq, List.length_append, length_padding, Nat.add_assoc]

theorem length_blocks (P : List Byte) : (blocks P).length = P.length / 64 := by
  simp [blocks]

/-- How many blocks L bytes and their padding fill: the padding needs 9 bytes, so a last block of more than 55 bytes spills
into a further one (R104, R107). -/
theorem padded_div (L : Nat) :
    (L + 9 + alignZeros L) / 64 = if L % 64 ≤ 55 then L / 64 + 1 else L / 64 + 2 := by
  have hmod := add_alignZeros_mod L
  have hlt := alignZeros_lt L
  split_ifs <;> omega

/-- Settles O50: the message comes first, the padding after it has R103's three parts in order, and R104's lengths follow
from the zero fill's. -/
theorem padLayout : Obligations.PadLayout := by
  unfold Obligations.PadLayout
  intro M
  have hlen := length_pad M
  have hmod := add_alignZeros_mod M.length
  have hlt := alignZeros_lt M.length
  refine ⟨?message, ?marker, ?zeros, ?field, hlen, by omega, by omega, by omega, ?blocks⟩
  case message => rw [pad_eq, List.take_left]
  case marker => rw [pad_eq, byteAt_append_right (Nat.le_refl _), Nat.sub_self, byteAt_padding_zero]
  case zeros =>
    intro k h1 h2
    rw [pad_eq, byteAt_append_right (by omega)]
    exact byteAt_padding_of_zeros _ (by omega) (by omega)
  case field => rw [pad_eq, Nat.add_assoc, List.drop_length_add_append, drop_padding]
  case blocks => rw [length_blocks, hlen, padded_div]

/-! ### The tail (R107, R108) -/

theorem length_tailBytes (buf : Block) {bufcnt : Nat} (len : Nat) (h : bufcnt < 64) :
    (tailBytes buf bufcnt len).length = bufcnt + 9 + alignZeros bufcnt := by
  rw [tailBytes_eq, List.length_append, length_padding, List.length_take, Vector.length_toList,
    Nat.min_eq_left h.le, Nat.add_assoc]

/-- R107's block count. -/
theorem length_padTail (buf : Block) {bufcnt : Nat} (len : Nat) (h : bufcnt < 64) :
    (padTail buf bufcnt len).length = if bufcnt ≤ 55 then 1 else 2 := by
  rw [padTail, length_blocks, length_tailBytes buf len h, padded_div, Nat.mod_eq_of_lt h, Nat.div_eq_of_lt h]

/-- R108: the bytes compressed so far, then the tail, are the padded message. -/
theorem State.Represents.take_append_tailBytes {s : State} {M : List Byte} (h : s.Represents M) :
    M.take (M.length - s.bufcnt.toNat) ++ tailBytes s.buf s.bufcnt.toNat s.len.toNat = pad M := by
  obtain ⟨hlen, hcnt, hbuf, -⟩ := h
  rw [tailBytes_eq, hbuf, hlen, ← List.append_assoc, List.take_append_drop, pad_eq, hcnt, hlen, padding_mod]

/-- Settles O51: the bytes compressed so far are whole blocks, so pad(M)'s blocks are theirs followed by the tail's. -/
theorem tailAgreesWithPad : Obligations.TailAgreesWithPad := by
  unfold Obligations.TailAgreesWithPad
  intro s M h
  have htail := h.take_append_tailBytes
  refine ⟨length_padTail _ _ s.bufcnt.isLt, htail, ?blocks⟩
  case blocks =>
    obtain ⟨hlen, hcnt, -, -⟩ := h
    have hwhole : (M.take (M.length - s.bufcnt.toNat)).length % 64 = 0 := by
      rw [List.length_take]
      omega
    rw [padTail, ← blocks_append _ hwhole, htail]

end Sys2Proof.Machine
end

section
/-! The block buffer (41_block_buffer.md): what absorbing a chunk short of a full block, and one that fills the block, does;
what an engine that has absorbed a message holds of it. -/

namespace Sys2Proof.Machine

/-! ### A chunk absorbed (R121, R122) -/

theorem absorbAll_cons (x : Byte) (xs : List Byte) (s : State) : s.absorbAll (x :: xs) = (s.absorb x).absorbAll xs := rfl

theorem absorbAll_append (xs ys : List Byte) (s : State) :
    s.absorbAll (xs ++ ys) = (s.absorbAll xs).absorbAll ys := List.foldl_append

/-- The byte stored follows those below BUFCNT. -/
theorem take_storeByte_buf (x : Byte) (s : State) :
    (s.storeByte x).buf.toList.take (s.bufcnt.toNat + 1) = s.buf.toList.take s.bufcnt.toNat ++ [x] := by
  have hlt : s.bufcnt.toNat < s.buf.toList.length := by
    rw [Vector.length_toList]
    exact s.bufcnt.isLt
  rw [storeByte_buf, Vector.toList_set, List.take_add_one, List.take_set_of_le (Nat.le_refl _),
    List.getElem?_set_self hlt]
  rfl

/-- A byte that leaves the block short of full is stored, and nothing is compressed. -/
theorem absorb_of_short {s : State} (x : Byte) (h : s.bufcnt.toNat + 1 < 64) :
    (s.absorb x).h = s.h ∧ (s.absorb x).bufcnt.toNat = s.bufcnt.toNat + 1 ∧
    (s.absorb x).buf.toList.take (s.bufcnt.toNat + 1) = s.buf.toList.take s.bufcnt.toNat ++ [x] := by
  have hne : s.bufcnt ≠ 63 := by bv_omega
  rw [absorb_short x hne]
  exact ⟨rfl, BitVec.toNat_add_of_lt h, take_storeByte_buf x s⟩

/-- Bytes that leave the block short of full are stored in order, and nothing is compressed. -/
theorem absorbAll_of_short {s : State} {bytes : List Byte} (h : s.bufcnt.toNat + bytes.length < 64) :
    (s.absorbAll bytes).h = s.h ∧ (s.absorbAll bytes).bufcnt.toNat = s.bufcnt.toNat + bytes.length ∧
    (s.absorbAll bytes).buf.toList.take (s.bufcnt.toNat + bytes.length) = s.buf.toList.take s.bufcnt.toNat ++ bytes := by
  induction bytes generalizing s with
  | nil => exact ⟨rfl, rfl, (List.append_nil _).symm⟩
  | cons x xs ih =>
    rw [List.length_cons] at h
    obtain ⟨hh, hcnt, hbuf⟩ := absorb_of_short x (s := s) (by omega)
    have hnext := ih (s := s.absorb x) (by omega)
    rw [hh, hcnt, hbuf, Nat.add_right_comm, List.append_assoc] at hnext
    exact hnext

/-- Bytes that just fill the block have it compressed, bytes of BUF first, and leave BUF empty. -/
theorem absorbAll_of_fills {s : State} {bytes : List Byte} (h : s.bufcnt.toNat + bytes.length = 64) :
    (s.absorbAll bytes).h = compress s.h (blockAt (s.buf.toList.take s.bufcnt.toNat ++ bytes) 0) ∧
    (s.absorbAll bytes).bufcnt = 0 := by
  have hlt := s.bufcnt.isLt
  obtain rfl | ⟨xs, x, rfl⟩ := bytes.eq_nil_or_concat'
  · rw [List.length_nil] at h
    omega
  · rw [List.length_append, List.length_singleton] at h
    obtain ⟨hh, hcnt, hbuf⟩ := absorbAll_of_short (s := s) (bytes := xs) (by omega)
    have h63 : s.bufcnt.toNat + xs.length = 63 := by omega
    rw [h63] at hcnt hbuf
    have hblock : s.buf.toList.take s.bufcnt.toNat ++ (xs ++ [x]) = ((s.absorbAll xs).storeByte x).buf.toList := by
      rw [storeByte_block x hcnt, hbuf, List.append_assoc]
    rw [absorbAll_append, absorbAll_cons, absorb_full x (BitVec.eq_of_toNat_eq hcnt), hh, blockAt_zero_eq hblock]
    exact ⟨rfl, rfl⟩

/-- Settles O54: a chunk that reaches the block's end splits there into the bytes that fill the block and a rest too short to
fill another. -/
theorem updateCompletesAtMostOneBlock : Obligations.UpdateCompletesAtMostOneBlock := by
  unfold Obligations.UpdateCompletesAtMostOneBlock
  intro s bytes hlen
  rw [completeUpdate_h, completeUpdate_bufcnt, completeUpdate_buf]
  refine ⟨fun hshort => ?short, fun hfull => ?full⟩
  case short =>
    obtain ⟨hh, hcnt, -⟩ := absorbAll_of_short hshort
    exact ⟨hh, hcnt⟩
  case full =>
    have hlt := s.bufcnt.isLt
    obtain ⟨xs, ys, rfl, hxs⟩ : ∃ xs ys, bytes = xs ++ ys ∧ xs.length = 64 - s.bufcnt.toNat :=
      ⟨_, _, (List.take_append_drop (64 - s.bufcnt.toNat) bytes).symm, by rw [List.length_take]; omega⟩
    rw [List.length_append] at hlen hfull
    obtain ⟨hfillH, hfillCnt⟩ := absorbAll_of_fills (s := s) (bytes := xs) (by omega)
    have hzero : (s.absorbAll xs).bufcnt.toNat = 0 := by rw [hfillCnt]; rfl
    have hrest : s.bufcnt.toNat + (xs.length + ys.length) - 64 = ys.length := by omega
    obtain ⟨hh, hcnt, hbuf⟩ := absorbAll_of_short (s := s.absorbAll xs) (bytes := ys) (by omega)
    rw [hzero, Nat.zero_add] at hcnt hbuf
    rw [List.take_left' hxs, List.drop_left' hxs, absorbAll_append, List.length_append, hrest]
    exact ⟨hh.trans hfillH, hcnt, hbuf⟩

/-! ### What an engine holds of the message it has absorbed (R125, R127) -/

/-- UPDATE completions append their chunks to the message represented, one after the other. -/
theorem foldl_completeUpdate_represents (chunks : List (List Byte)) {s : State} {M : List Byte} (h : s.Represents M)
    (hl : M.length + chunks.flatten.length ≤ maxLen) :
    (chunks.foldl (fun t c => t.completeUpdate c) s).Represents (M ++ chunks.flatten) := by
  induction chunks generalizing s M with
  | nil =>
    rw [List.flatten_nil, List.append_nil]
    exact h
  | cons c cs ih =>
    rw [List.flatten_cons, List.length_append] at hl
    rw [List.flatten_cons, ← List.append_assoc]
    exact ih (completeUpdate_represents c h (by omega)) (by rw [List.length_append]; omega)

/-- R125's clauses fix LEN, BUFCNT, the bytes of BUF below BUFCNT and H by the message. -/
theorem State.Represents.unique {s t : State} {M : List Byte} (hs : s.Represents M) (ht : t.Represents M) :
    s.h = t.h ∧ s.len = t.len ∧ s.bufcnt = t.bufcnt ∧
      s.buf.toList.take s.bufcnt.toNat = t.buf.toList.take s.bufcnt.toNat := by
  have hlen : s.len = t.len := BitVec.eq_of_toNat_eq (hs.len_eq.trans ht.len_eq.symm)
  have hcnt : s.bufcnt = t.bufcnt := by
    apply BitVec.eq_of_toNat_eq
    rw [hs.bufcnt_eq, ht.bufcnt_eq, hlen]
  refine ⟨?_, hlen, hcnt, ?_⟩
  · rw [hs.h_eq, ht.h_eq, hlen, hcnt]
  · rw [hs.buf_eq, hcnt, ht.buf_eq, hlen]

/-- Settles O56: both engines represent the chunks' concatenation, and R125 fixes what an engine holds of a message. -/
theorem splitInvariance : Obligations.SplitInvariance := by
  unfold Obligations.SplitInvariance
  intro s t cs ds hs ht hsame hl
  have hl' : ([] : List Byte).length + cs.flatten.length ≤ maxLen := by rwa [List.length_nil, Nat.zero_add]
  have hcs := foldl_completeUpdate_represents cs hs hl'
  have hds := foldl_completeUpdate_represents ds ht (hsame ▸ hl')
  rw [← hsame] at hds
  exact hcs.unique hds

end Sys2Proof.Machine
end

section
/-! The bit mixers of the message schedule and of the rounds (42_schedule.md, 43_compression.md), and the schedule of a block:
its load from the block's bytes and its expansion. -/

namespace Sys2Proof.Machine

/-! ### The bit mixers (R140, R141, R160, R162) -/

theorem rotr_eq_rotateRight (x : Word) {n : Nat} (hn : n < 32) : rotr x n = x.rotateRight n := by
  rw [BitVec.rotateRight_def, Nat.mod_eq_of_lt hn, rotr]

/-- Bit i of a right rotation is the bit n places up, around the word's end (R10). -/
theorem getLsbD_rotr (x : Word) {n i : Nat} (hn : n < 32) (hi : i < 32) :
    (rotr x n).getLsbD i = x.getLsbD ((i + n) % 32) := by
  rw [rotr_eq_rotateRight x hn, BitVec.getLsbD_rotateRight_of_lt hn]
  by_cases hwrap : i < 32 - n
  · have hpos : (i + n) % 32 = n + i := by omega
    rw [hpos, decide_eq_true hwrap, cond_true]
  · have hpos : (i + n) % 32 = i - (32 - n) := by omega
    rw [hpos, decide_eq_false hwrap, cond_false, decide_eq_true hi, Bool.true_and]

/-- The shape of the schedule's two mixers, s0 and s1: two rotations and a shift. -/
theorem getLsbD_rotr_xor_shift (x : Word) {m n k i : Nat} (hm : m < 32) (hn : n < 32) (hi : i < 32) :
    (rotr x m ^^^ rotr x n ^^^ (x >>> k)).getLsbD i =
      ((x.getLsbD ((i + m) % 32) ^^ x.getLsbD ((i + n) % 32)) ^^ x.getLsbD (i + k)) := by
  rw [BitVec.getLsbD_xor, BitVec.getLsbD_xor, getLsbD_rotr x hm hi, getLsbD_rotr x hn hi, BitVec.getLsbD_ushiftRight,
    Nat.add_comm k]

/-- The shape of the rounds' two mixers, S0 and S1: three rotations. -/
theorem getLsbD_rotr_xor_rotr (x : Word) {m n k i : Nat} (hm : m < 32) (hn : n < 32) (hk : k < 32) (hi : i < 32) :
    (rotr x m ^^^ rotr x n ^^^ rotr x k).getLsbD i =
      ((x.getLsbD ((i + m) % 32) ^^ x.getLsbD ((i + n) % 32)) ^^ x.getLsbD ((i + k) % 32)) := by
  rw [BitVec.getLsbD_xor, BitVec.getLsbD_xor, getLsbD_rotr x hm hi, getLsbD_rotr x hn hi, getLsbD_rotr x hk hi]

/-- Settles O43: each mixer is an exclusive or of rotations, or of rotations and a shift, taken bit by bit; the corner values
are the mixers' values at fixed words. -/
theorem sigmaBits : Obligations.SigmaBits := by
  unfold Obligations.SigmaBits
  refine ⟨fun x i hi => ⟨?s0, ?s1, ?S0, ?S1⟩, by decide⟩
  case s0 => exact getLsbD_rotr_xor_shift x (by decide) (by decide) hi
  case s1 => exact getLsbD_rotr_xor_shift x (by decide) (by decide) hi
  case S0 => exact getLsbD_rotr_xor_rotr x (by decide) (by decide) (by decide) hi
  case S1 => exact getLsbD_rotr_xor_rotr x (by decide) (by decide) (by decide) hi

/-! ### The schedule's load (R142) -/

/-- A byte moved up k places, clear of the word's end. -/
theorem toNat_byte_shiftLeft (b : Byte) {k : Nat} (hk : k ≤ 24) : (b.setWidth 32 <<< k).toNat = b.toNat <<< k := by
  have hfit : b.toNat * 2 ^ k < 2 ^ 32 :=
    calc b.toNat * 2 ^ k < 2 ^ 8 * 2 ^ k := Nat.mul_lt_mul_of_pos_right b.isLt (Nat.two_pow_pos k)
      _ = 2 ^ (8 + k) := (Nat.pow_add 2 8 k).symm
      _ ≤ 2 ^ 32 := Nat.pow_le_pow_right Nat.two_pos (by omega)
  rw [BitVec.toNat_shiftLeft, BitVec.toNat_setWidth_of_le (by decide), Nat.shiftLeft_eq, Nat.mod_eq_of_lt hfit]

/-- Bits put below bit k add up with those from bit k up. -/
theorem shiftLeft_or_eq_mul_add {k y : Nat} (x : Nat) (hy : y < 2 ^ k) : x <<< k ||| y = x * 2 ^ k + y := by
  rw [← Nat.shiftLeft_add_eq_or_of_lt hy, Nat.shiftLeft_eq]

/-- The big-endian word of four bytes, in arithmetic (R11): what follows a byte lies below its place. -/
theorem toNat_be32 (P : List Byte) (i : Nat) :
    (be32 P i).toNat = (byteAt P i).toNat * 2 ^ 24 + (byteAt P (i + 1)).toNat * 2 ^ 16 +
      (byteAt P (i + 2)).toNat * 2 ^ 8 + (byteAt P (i + 3)).toNat := by
  have h1 := (byteAt P (i + 1)).isLt
  have h2 := (byteAt P (i + 2)).isLt
  have h3 := (byteAt P (i + 3)).isLt
  rw [be32, BitVec.toNat_or, BitVec.toNat_or, BitVec.toNat_or, toNat_byte_shiftLeft _ (Nat.le_refl 24),
    toNat_byte_shiftLeft _ (by decide), toNat_byte_shiftLeft _ (by decide), BitVec.toNat_setWidth_of_le (by decide),
    Nat.or_assoc, Nat.or_assoc, shiftLeft_or_eq_mul_add (k := 8) _ h3, shiftLeft_or_eq_mul_add (k := 16) _ (by omega),
    shiftLeft_or_eq_mul_add (k := 24) _ (by omega), Nat.add_assoc, Nat.add_assoc]

theorem byteAt_toList (B : Block) {i : Nat} (h : i < 64) : byteAt B.toList i = B[i] := by
  rw [byteAt_eq_getElem (by rwa [Vector.length_toList]), Vector.getElem_toList]

theorem getElem_schedule (B : Block) {t : Nat} (ht : t < 64) : (schedule B)[t] = scheduleWord B t :=
  Vector.getElem_ofFn _

theorem scheduleWord_load (B : Block) {j : Nat} (hj : j < 16) : scheduleWord B j = be32 B.toList (4 * j) :=
  if_pos hj

/-! ### The schedule's expansion (R143) -/

theorem scheduleUpTo_succ (B : Block) (n : Nat) :
    scheduleUpTo B (n + 1) = scheduleWord B n :: scheduleUpTo B n := rfl

/-- Position j of the words before t, newest first, holds W[t − 1 − j]. -/
theorem scheduleUpTo_getD (B : Block) {t j : Nat} (h : j < t) :
    (scheduleUpTo B t).getD j 0 = scheduleWord B (t - 1 - j) := by
  induction t generalizing j with
  | zero => exact absurd h (Nat.not_lt_zero j)
  | succ t ih =>
    rw [scheduleUpTo_succ, Nat.add_sub_cancel]
    cases j with
    | zero => rfl
    | succ j => rw [List.getD_cons_succ, ih (by omega), Nat.sub_sub, Nat.add_comm]

theorem scheduleWord_expand (B : Block) {t : Nat} (ht : 16 ≤ t) :
    scheduleWord B t = scheduleWord B (t - 16) + s0 (scheduleWord B (t - 15)) + scheduleWord B (t - 7) +
      s1 (scheduleWord B (t - 2)) := by
  rw [scheduleWord, scheduleNext, if_neg (Nat.not_lt.2 ht), scheduleUpTo_getD B (by omega), scheduleUpTo_getD B (by omega),
    scheduleUpTo_getD B (by omega), scheduleUpTo_getD B (by omega)]
  rfl

/-- Settles O45: the first 16 words are the block's bytes read as big-endian words, a later one is read off the words before
it, newest first; the "abc" block's words are computed. -/
theorem scheduleRecurrence : Obligations.ScheduleRecurrence := by
  unfold Obligations.ScheduleRecurrence
  refine ⟨fun B => ⟨fun j hj => ?load, fun t ht h16 => ?expand⟩, ?abc⟩
  case load =>
    rw [getElem_schedule, scheduleWord_load B hj, toNat_be32, byteAt_toList B (by omega), byteAt_toList B (by omega),
      byteAt_toList B (by omega), byteAt_toList B (by omega)]
  case expand =>
    simp only [getElem_schedule]
    exact scheduleWord_expand B h16
  case abc => decide +kernel

end Sys2Proof.Machine
end

section
/-! The rounds and the accumulator (43_compression.md): the choice and the majority bit by bit, the rounds in order, and what
compressing a block writes. -/

namespace Sys2Proof.Machine

/-! ### The choice and the majority (R161, R163) -/

theorem getLsbD_ch (e f g : Word) {i : Nat} (hi : i < 32) :
    (ch e f g).getLsbD i = if e.getLsbD i then f.getLsbD i else g.getLsbD i := by
  rw [ch, BitVec.getLsbD_xor, BitVec.getLsbD_and, BitVec.getLsbD_and, BitVec.getLsbD_not, decide_eq_true hi, Bool.true_and]
  cases e.getLsbD i with
  | true => rw [if_pos rfl, Bool.true_and, Bool.not_true, Bool.false_and, Bool.xor_false]
  | false => rw [if_neg Bool.false_ne_true, Bool.false_and, Bool.not_false, Bool.true_and, Bool.false_xor]

/-- The exclusive or of the three pairwise ands is the majority of three bits. -/
theorem xor_and_pairs_iff (x y z : Bool) :
    ((x && y) ^^ (x && z) ^^ (y && z)) = true ↔ 2 ≤ x.toNat + y.toNat + z.toNat := by
  revert x y z
  decide

theorem getLsbD_maj (a b c : Word) (i : Nat) :
    (maj a b c).getLsbD i = true ↔ 2 ≤ (a.getLsbD i).toNat + (b.getLsbD i).toNat + (c.getLsbD i).toNat := by
  rw [maj, BitVec.getLsbD_xor, BitVec.getLsbD_xor, BitVec.getLsbD_and, BitVec.getLsbD_and, BitVec.getLsbD_and]
  exact xor_and_pairs_iff _ _ _

theorem ch_zero (f g : Word) : ch 0#32 f g = g := by
  rw [ch, BitVec.zero_and, BitVec.not_zero, BitVec.allOnes_and, BitVec.zero_xor]

theorem ch_allOnes (f g : Word) : ch (BitVec.allOnes 32) f g = f := by
  rw [ch, BitVec.allOnes_and, BitVec.not_allOnes, BitVec.zero_and, BitVec.xor_zero]

theorem maj_zero_zero (c : Word) : maj 0#32 0#32 c = 0#32 := by
  rw [maj, BitVec.zero_and, BitVec.zero_and, BitVec.xor_zero, BitVec.xor_zero]

theorem maj_allOnes_zero (c : Word) : maj (BitVec.allOnes 32) 0#32 c = c := by
  rw [maj, BitVec.allOnes_and, BitVec.allOnes_and, BitVec.zero_and, BitVec.xor_zero, BitVec.zero_xor]

/-- Settles O44: both are bitwise, so each bit is a truth table of three; a word of ones or zeros makes the same choice at
every bit. -/
theorem choiceAndMajorityBits : Obligations.ChoiceAndMajorityBits := by
  unfold Obligations.ChoiceAndMajorityBits
  refine ⟨fun e f g i hi => ⟨getLsbD_ch e f g hi, getLsbD_maj e f g i⟩, fun f g => ?corners, by decide⟩
  case corners => exact ⟨ch_zero f g, ch_allOnes f g, maj_zero_zero f, maj_allOnes_zero f⟩

/-! ### The rounds in order (R166, R167) -/

/-- Rounds 0 to n − 1 are a fold over their indices: the last round is the outermost. -/
theorem rounds_eq_foldl (W : Schedule) (n : Nat) (v : Working) :
    rounds W n v = (List.range n).foldl (fun v t => roundStep (kAt t) (wAt W t) v) v := by
  induction n with
  | zero => rfl
  | succ n ih => rw [rounds, ih, List.range_succ, List.foldl_concat]

theorem wAt_eq_getElem (W : Schedule) {t : Nat} (ht : t < 64) : wAt W t = W[t] := by
  rw [wAt, List.getD_eq_getElem _ _ (by rwa [Vector.length_toList]), Vector.getElem_toList]

/-- permute reads W[t] at each of the 64 indices. -/
theorem permute_eq_foldl (H : HashState) (W : Schedule) :
    permute H W = (List.finRange 64).foldl (fun v t => roundStep (kAt t.val) W[t] v) (loadWorking H) := by
  rw [permute, rounds_eq_foldl, ← List.map_coe_finRange_eq_range, List.foldl_map]
  simp only [wAt_eq_getElem W (Fin.isLt _), Fin.getElem_fin]

/-- Settles O46: a round has R166's eight new values by definition, the 64 rounds are a fold over their indices, and round 0
of the "abc" block is computed. -/
theorem permuteRunsRounds : Obligations.PermuteRunsRounds := by
  unfold Obligations.PermuteRunsRounds
  refine ⟨fun k w a b c d e f g h => rfl, fun H W => permute_eq_foldl H W, ?abc⟩
  case abc => decide

/-! ### Compressing a block (R169, R173) -/

theorem getElem_accumulate (H : HashState) (v : Working) {i : Nat} (hi : i < 8) :
    (accumulate H v)[i] = H[i] + (workingWords v)[i] :=
  Vector.getElem_ofFn _

/-- R169 for the engine's H. -/
theorem getElem_compressBlock_h (s : State) (B : Block) {i : Nat} (hi : i < 8) :
    (s.compressBlock B).h[i] = s.h[i] + (workingWords (permute s.h (schedule B)))[i] := by
  simp only [compressBlock_h]
  exact getElem_accumulate s.h _ hi

/-- R173's frame. -/
theorem compressBlock_frame (s : State) (B : Block) :
    s.compressBlock B = { s with
      h := (s.compressBlock B).h, work := (s.compressBlock B).work, w := (s.compressBlock B).w,
      round := (s.compressBlock B).round, freeCount := (s.compressBlock B).freeCount } := by
  rw [compressBlock_eq]
  rfl

/-- Settles O47: the accumulator adds word by word and the engine writes H and the free values only; the three examples'
words are computed. -/
theorem compressBlockAccumulates : Obligations.CompressBlockAccumulates := by
  unfold Obligations.CompressBlockAccumulates
  refine ⟨fun s B => ⟨fun i hi => getElem_compressBlock_h s B hi, compressBlock_frame s B⟩, ?abc, ?twoBlocks⟩
  case abc => decide +kernel
  case twoBlocks => decide +kernel

end Sys2Proof.Machine
end

section
/-! The digest serializer (44_digest.md R190, R191): the 32 bytes of the digest, word by word. -/

namespace Sys2Proof.Machine

/-- Four bytes a word (R11). -/
@[simp] theorem length_flatMap_be32bytes (ws : List Word) : (ws.flatMap be32bytes).length = 4 * ws.length := by
  simp [List.length_flatMap, be32bytes, Nat.mul_comm]

/-- Byte 4i + j of words written out big-endian is byte j of word i. -/
theorem byteAt_flatMap_be32bytes {ws : List Word} {i j : Nat} (hi : i < ws.length) (hj : j < 4) :
    byteAt (ws.flatMap be32bytes) (4 * i + j) = byteAt (be32bytes ws[i]) j := by
  induction ws generalizing i with
  | nil => exact absurd hi (Nat.not_lt_zero i)
  | cons w ws ih =>
    rw [List.flatMap_cons]
    cases i with
    | zero =>
      rw [Nat.mul_zero, Nat.zero_add]
      exact byteAt_append_left hj
    | succ i =>
      have hskip : 4 * (i + 1) + j - (be32bytes w).length = 4 * i + j := by
        rw [show (be32bytes w).length = 4 from rfl]
        omega
      rw [byteAt_append_right (show 4 ≤ 4 * (i + 1) + j by omega), hskip]
      exact ih (Nat.lt_of_succ_lt_succ hi)

/-- Byte j of a word written out big-endian is its base-256 digit of weight 3 − j (R11). -/
theorem toNat_byteAt_be32bytes (w : Word) {j : Nat} (hj : j < 4) :
    (byteAt (be32bytes w) j).toNat = w.toNat / 256 ^ (3 - j) % 256 := by
  obtain rfl | rfl | rfl | rfl : j = 0 ∨ j = 1 ∨ j = 2 ∨ j = 3 := by omega
  all_goals
    rw [byteAt_eq_getElem hj]
    simp [be32bytes, Nat.shiftRight_eq_div_pow]

theorem serialize_eq (H : HashState) : serialize H = H.toList.flatMap be32bytes := rfl

theorem toNat_byteAt_serialize (H : HashState) {i j : Nat} (hi : i < 8) (hj : j < 4) :
    (byteAt (serialize H) (4 * i + j)).toNat = H[i].toNat / 256 ^ (3 - j) % 256 := by
  rw [serialize_eq, byteAt_flatMap_be32bytes (by rwa [Vector.length_toList]) hj, toNat_byteAt_be32bytes _ hj,
    Vector.getElem_toList]

/-- R191: the digest's words are H's, their four digits read back. -/
theorem be32_serialize (H : HashState) {i : Nat} (hi : i < 8) : be32 (serialize H) (4 * i) = H[i] := by
  apply BitVec.eq_of_toNat_eq
  have h0 := toNat_byteAt_serialize H hi (j := 0) (by decide)
  have h1 := toNat_byteAt_serialize H hi (j := 1) (by decide)
  have h2 := toNat_byteAt_serialize H hi (j := 2) (by decide)
  have h3 := toNat_byteAt_serialize H hi (j := 3) (by decide)
  have hlt := H[i].isLt
  rw [Nat.add_zero] at h0
  rw [toNat_be32, h0, h1, h2, h3]
  omega

/-- Settles O52: each word of H gives four bytes, its base-256 digits most significant first, and they read back to it. -/
theorem serializeLayout : Obligations.SerializeLayout := by
  unfold Obligations.SerializeLayout
  intro H
  refine ⟨?length, fun i hi => ⟨be32_serialize H hi, fun j hj => toNat_byteAt_serialize H hi hj⟩⟩
  case length => rw [serialize_eq, length_flatMap_be32bytes, Vector.length_toList]

end Sys2Proof.Machine
end

section
/-! Programs run to their end (45_host_commands.md R200 to R203): a state the machine reaches, the program at the port, and a
held transaction that waits out whatever command is pending. -/

namespace Sys2Proof.Machine

/-! ### Reaching a state -/

/-- Some number of steps takes the machine from s to t. -/
def State.Reaches (s t : State) : Prop := ∃ n, core.run n s = .next t

theorem State.Reaches.refl (s : State) : s.Reaches s := ⟨0, core_run_zero s⟩

theorem State.Reaches.trans {s t u : State} (h : s.Reaches t) (h' : t.Reaches u) : s.Reaches u := by
  obtain ⟨m, hm⟩ := h
  obtain ⟨n, hn⟩ := h'
  exact ⟨m + n, (core_run_add hm n).trans hn⟩

theorem State.Reaches.of_step {s t : State} (h : step s = .next t) : s.Reaches t := ⟨1, core_run_one h⟩

/-! ### The program at the port -/

/-- No reset is ahead, the host has the program p still to issue, and its reads have returned obs. -/
structure State.AtPort (s : State) (p : List Instr) (obs : List Word) : Prop where
  no_reset : s.NoReset
  queue_eq : s.queue = programAccesses s.engineBase p
  results_eq : s.results = obs

theorem State.NoReset.resetNow {s : State} (h : s.NoReset) : s.resetNow = false := by
  unfold State.resetNow
  cases hr : s.resetLine with
  | nil => rfl
  | cons b bs => exact h b (hr ▸ List.mem_cons_self)

theorem State.NoReset.tick {s : State} (h : s.NoReset) : s.tick.NoReset := fun b hb => h b (List.mem_of_mem_tail hb)

section
variable {s : State} {i : Instr} {p : List Instr} {obs : List Word}

theorem State.AtPort.tick (h : s.AtPort p obs) : s.tick.AtPort p obs := ⟨h.no_reset.tick, h.queue_eq, h.results_eq⟩

theorem State.AtPort.retire (h : s.AtPort (i :: p) obs) : s.retire.AtPort p obs :=
  ⟨h.no_reset, by rw [retire_queue, h.queue_eq]; rfl, h.results_eq⟩

theorem State.AtPort.reply (h : s.AtPort (i :: p) obs) (v : Word) : (s.reply v).AtPort p (obs ++ [v]) :=
  ⟨h.no_reset, by rw [reply_queue, h.queue_eq]; rfl, by rw [reply_results, h.results_eq]⟩

theorem State.AtPort.accept (h : s.AtPort p obs) (c : Pending) : (s.accept c).AtPort p obs :=
  ⟨h.no_reset, h.queue_eq, h.results_eq⟩

theorem State.AtPort.writeData (h : s.AtPort p obs) (v : Word) : ({ s with data := v } : State).AtPort p obs :=
  ⟨h.no_reset, h.queue_eq, h.results_eq⟩

theorem State.AtPort.complete (h : s.AtPort p obs) : s.complete.AtPort p obs := by
  refine ⟨?_, ?_, ?_⟩
  · rw [State.NoReset, complete_resetLine]
    exact h.no_reset
  · rw [complete_queue, State.engineBase, complete_baseBlock]
    exact h.queue_eq
  · rw [complete_results]
    exact h.results_eq

end

/-! ### The encoded transaction decodes (R70) -/

theorem keyRoundTrip : ∀ i : Instr, Laws.KeyRoundTrip.Statement i
  | .init => Laws.KeyRoundTrip.init
  | .update n => Laws.KeyRoundTrip.update n
  | .finalize => Laws.KeyRoundTrip.finalize
  | .rdCmd => Laws.KeyRoundTrip.rdCmd
  | .rdData => Laws.KeyRoundTrip.rdData
  | .rdStatus => Laws.KeyRoundTrip.rdStatus
  | .rdRsvd0C => Laws.KeyRoundTrip.rdRsvd0C
  | .rdRsvd1X w => Laws.KeyRoundTrip.rdRsvd1X w
  | .rdDigest n => Laws.KeyRoundTrip.rdDigest n
  | .wrCmd v => Laws.KeyRoundTrip.wrCmd v
  | .wrData v => Laws.KeyRoundTrip.wrData v
  | .wrStatus v => Laws.KeyRoundTrip.wrStatus v
  | .wrRsvd0C v => Laws.KeyRoundTrip.wrRsvd0C v
  | .wrRsvd1X w v => Laws.KeyRoundTrip.wrRsvd1X w v
  | .wrDigest n v => Laws.KeyRoundTrip.wrDigest n v

theorem decode_encode {i : Instr} (hwf : i.wf = true) (base : Nat) : decode base (encode base i) = .ok i := by
  obtain ⟨hkey, halign, hwindow⟩ := keyRoundTrip i hwf
  rw [decode_encode_key base i hwindow halign, hkey]

/-- A step in which no completion is due runs the instruction at the port. -/
theorem State.AtPort.step_eq {s : State} {i : Instr} {p : List Instr} {obs : List Word} (h : s.AtPort (i :: p) obs)
    (hwf : i.wf = true) (hc : s.completionDue = false) : step s = exec i s.tick :=
  step_transaction h.no_reset.resetNow hc h.queue_eq (decode_encode hwf _)

theorem completionDue_of_idle {s : State} (h : s.phase = .idle) : s.completionDue = false := by
  rw [State.completionDue, (busy_eq_false_iff s).2 h, Bool.false_and]

/-! ### What may pass while a command is pending -/

/-- s with other values in DATA and in the model's own fields for the host, the latency and the platform: all that moves
while a command is pending. -/
def State.withHost (s : State) (d : Word) (q : List Access) (l : Nat) (r : List Bool) : State :=
  { s with data := d, queue := q, latencyLeft := l, resetLine := r }

section
variable (s : State) (d : Word) (q : List Access) (l : Nat) (r : List Bool)

theorem absorb_withHost (x : Byte) : (s.withHost d q l r).absorb x = (s.absorb x).withHost d q l r := by
  by_cases h : s.bufcnt = 63
  · rw [absorb_full x h, absorb_full x (show (s.withHost d q l r).bufcnt = 63 from h)]
    rfl
  · rw [absorb_short x h, absorb_short x (show (s.withHost d q l r).bufcnt ≠ 63 from h)]
    rfl

theorem absorbAll_withHost (bytes : List Byte) :
    (s.withHost d q l r).absorbAll bytes = (s.absorbAll bytes).withHost d q l r := by
  induction bytes generalizing s with
  | nil => rfl
  | cons x xs ih => rw [absorbAll_cons, absorb_withHost, ih, ← absorbAll_cons]

theorem compressAll_withHost (bs : List Block) :
    (s.withHost d q l r).compressAll bs = (s.compressAll bs).withHost d q l r := by
  induction bs generalizing s with
  | nil => rfl
  | cons B Bs ih => exact ih (s.compressBlock B)

theorem completeUpdate_withHost (bytes : List Byte) :
    (s.withHost d q l r).completeUpdate bytes = (s.completeUpdate bytes).withHost d q l r := by
  rw [State.completeUpdate, absorbAll_withHost]
  rfl

theorem completeFinalize_withHost :
    (s.withHost d q l r).completeFinalize = s.completeFinalize.withHost d q l r :=
  congrArg (fun t : State => t.closeFlags.forgetBuf.forgetBufcnt) (compressAll_withHost s d q l r _)

/-- A completion neither reads nor writes what may pass while its command is pending (R203; R76 for DATA). -/
theorem complete_withHost : (s.withHost d q l r).complete = s.complete.withHost d q l r := by
  have hp : (s.withHost d q l r).phase = s.phase := rfl
  cases h : s.phase with
  | idle => rw [complete_idle h, complete_idle (hp.trans h)]
  | busy c =>
    cases c with
    | init =>
      rw [complete_init h, complete_init (hp.trans h)]
      rfl
    | update bytes =>
      rw [complete_update h, complete_update (hp.trans h), completeUpdate_withHost]
      rfl
    | finalize =>
      rw [complete_finalize h, complete_finalize (hp.trans h), completeFinalize_withHost]
      rfl

end

theorem complete_tick (s : State) :
    s.tick.complete = s.complete.withHost s.data s.queue (s.latencyLeft - 1) s.resetLine.tail :=
  complete_withHost s s.data s.queue (s.latencyLeft - 1) s.resetLine.tail

/-! ### Waiting at the port (R201) -/

theorem exec_held {i : Instr} {s : State} (hi : heldInstr i = true) (hb : s.busy = true) : exec i s = .next s := by
  cases i with
  | init | update _ | finalize | rdDigest _ | wrCmd _ => exact finishUnlessBusy_busy _ hb
  | rdCmd | rdData | rdStatus | rdRsvd0C | rdRsvd1X _ | wrData _ | wrStatus _ | wrRsvd0C _ | wrRsvd1X _ _
  | wrDigest _ _ => cases hi

/-- Whatever command is pending, and whatever its latency, a transaction that is held waits at the port until the completion
is done. -/
theorem State.AtPort.reaches_complete {s : State} {i : Instr} {p : List Instr} {obs : List Word}
    (h : s.AtPort (i :: p) obs) (hwf : i.wf = true) (hi : heldInstr i = true) :
    ∃ l r, s.Reaches (s.complete.withHost s.data s.queue l r) ∧
      (s.complete.withHost s.data s.queue l r).AtPort (i :: p) obs := by
  cases hb : s.busy with
  | false =>
    rw [complete_idle ((busy_eq_false_iff s).1 hb)]
    exact ⟨s.latencyLeft, s.resetLine, .refl s, h⟩
  | true =>
    induction hl : s.latencyLeft generalizing s with
    | zero =>
      have hdue : s.completionDue = true := by simp [State.completionDue, hb, hl]
      refine ⟨s.latencyLeft - 1, s.resetLine.tail, ?_⟩
      rw [← complete_tick]
      exact ⟨.of_step (step_completion h.no_reset.resetNow hdue), h.tick.complete⟩
    | succ n ih =>
      have hnot : s.completionDue = false := by simp [State.completionDue, hl]
      have hwait : step s = .next s.tick := (h.step_eq hwf hnot).trans (exec_held hi hb)
      obtain ⟨l, r, hreach, hport⟩ := ih h.tick hb (by rw [tick_latencyLeft, hl]; rfl)
      rw [complete_tick] at hreach hport
      exact ⟨l, r, (State.Reaches.of_step hwait).trans hreach, hport⟩

/-- A held transaction acts on an idle engine that has the pending command's effects. -/
theorem State.AtPort.reaches_exec {s : State} {i : Instr} {p : List Instr} {obs : List Word}
    (h : s.AtPort (i :: p) obs) (hwf : i.wf = true) (hi : heldInstr i = true) :
    ∃ l r, (s.complete.withHost s.data s.queue l r).AtPort (i :: p) obs ∧
      ∀ t, exec i (s.complete.withHost s.data s.queue l r) = .next t → s.Reaches t := by
  obtain ⟨l, r, hreach, hport⟩ := h.reaches_complete hwf hi
  refine ⟨l - 1, r.tail, hport.tick, fun t ht => hreach.trans (.of_step ?_)⟩
  rw [hport.step_eq hwf (completionDue_of_idle (complete_phase s))]
  exact ht

theorem State.AtPort.reaches_writeData_of_not_due {s : State} {v : Word} {p : List Instr} {obs : List Word}
    (h : s.AtPort (.wrData v :: p) obs) (hnot : s.completionDue = false) :
    s.Reaches (s.withHost v s.queue.tail (s.latencyLeft - 1) s.resetLine.tail) ∧
      (s.withHost v s.queue.tail (s.latencyLeft - 1) s.resetLine.tail).AtPort p obs :=
  ⟨.of_step (h.step_eq rfl hnot), (h.tick.writeData v).retire⟩

/-- A write of DATA never waits: it is done before or after the pending command's completion, which neither reads nor
writes it (R76, R212). -/
theorem State.AtPort.reaches_writeData {s : State} {v : Word} {p : List Instr} {obs : List Word}
    (h : s.AtPort (.wrData v :: p) obs) :
    ∃ t q l r, s.Reaches t ∧ t.AtPort p obs ∧ t.data = v ∧ t.complete = s.complete.withHost v q l r := by
  cases hdue : s.completionDue with
  | false =>
    obtain ⟨hreach, hport⟩ := h.reaches_writeData_of_not_due hdue
    exact ⟨_, _, _, _, hreach, hport, rfl, complete_withHost s _ _ _ _⟩
  | true =>
    have hcompletion : s.Reaches s.tick.complete := .of_step (step_completion h.no_reset.resetNow hdue)
    have hidle : s.tick.complete.phase = .idle := complete_phase s.tick
    obtain ⟨hreach, hport⟩ := h.tick.complete.reaches_writeData_of_not_due (completionDue_of_idle hidle)
    have hcomplete : ∀ q l r, (s.tick.complete.withHost v q l r).complete = s.complete.withHost v q l r := by
      intro q l r
      rw [complete_withHost, complete_idle hidle, complete_tick]
      rfl
    exact ⟨_, _, _, _, hcompletion.trans hreach, hport, rfl, hcomplete _ _ _⟩

end Sys2Proof.Machine
end

section
/-! The digest of a pushed message (44_digest.md R193, R220): what INIT, the pushes and FINALIZE leave once their commands are
complete, and the eight words that rddigest reads. -/

namespace Sys2Proof.Machine

/-! ### What the engine represents (R125) -/

/-- R125 speaks of LEN, BUFCNT, BUF and H alone. -/
theorem State.Represents.congr {s t : State} {M : List Byte} (h : s.Represents M) (hlen : t.len = s.len)
    (hcnt : t.bufcnt = s.bufcnt) (hbuf : t.buf = s.buf) (hh : t.h = s.h) : t.Represents M := by
  refine ⟨?_, ?_, ?_, ?_⟩
  · rw [hlen]; exact h.len_eq
  · rw [hlen, hcnt]; exact h.bufcnt_eq
  · rw [hlen, hcnt, hbuf]; exact h.buf_eq
  · rw [hlen, hcnt, hh]; exact h.h_eq

/-- A FINALIZE completion folds the blocks of pad(M) into H0 (R108, R209). -/
theorem State.Represents.completeFinalize_h {s : State} {M : List Byte} (h : s.Represents M) :
    s.completeFinalize.h = foldCompress h0Rom (blocks (pad M)) := by
  obtain ⟨-, -, hblocks⟩ := tailAgreesWithPad s M h
  rw [Sys2Proof.Machine.completeFinalize_h, h.h_eq, h.len_eq, ← foldCompress_append, ← h.len_eq, ← hblocks, h.len_eq]

/-- Once the pending command, if any, is complete the engine is Open and has absorbed M. -/
structure State.Absorbs (s : State) (M : List Byte) : Prop where
  closed_eq : s.complete.closed = false
  represents : s.complete.Represents M

/-- Once the pending command, if any, is complete the engine holds the digest of M. -/
structure State.Digests (s : State) (M : List Byte) : Prop where
  closed_eq : s.complete.closed = true
  dvalid_eq : s.complete.dvalid = true
  serialize_h : serialize s.complete.h = sha256 M

section
variable {s : State} {M : List Byte}

/-- The engine after the completion, whatever has passed meanwhile. -/
theorem State.Absorbs.after_complete (h : s.Absorbs M) (d : Word) (q : List Access) (l : Nat) (r : List Bool) :
    (s.complete.withHost d q l r).closed = false ∧ (s.complete.withHost d q l r).Represents M :=
  ⟨h.closed_eq, h.represents.congr rfl rfl rfl rfl⟩

/-! ### The commands accepted -/

theorem absorbs_accept_init (s : State) : (s.accept .init).retire.Absorbs [] := by
  have hdone := complete_init (s := (s.accept .init).retire) rfl
  refine ⟨?_, ?_⟩
  · rw [hdone]; rfl
  · rw [hdone]
    exact (completeInit_represents _).congr rfl rfl rfl rfl

theorem absorbs_accept_update {bytes : List Byte} (hc : s.closed = false) (h : s.Represents M)
    (hl : M.length + bytes.length ≤ maxLen) : (s.accept (.update bytes)).retire.Absorbs (M ++ bytes) := by
  have hdone := complete_update (s := (s.accept (.update bytes)).retire) rfl
  have haccept : (s.accept (.update bytes)).retire.Represents M := h.congr rfl rfl rfl rfl
  refine ⟨?_, ?_⟩
  · rw [hdone]
    exact (completeUpdate_closed bytes _).trans hc
  · rw [hdone]
    exact (completeUpdate_represents bytes haccept hl).congr rfl rfl rfl rfl

theorem digests_accept_finalize (h : s.Represents M) : (s.accept .finalize).retire.Digests M := by
  have hdone := complete_finalize (s := (s.accept .finalize).retire) rfl
  have haccept : (s.accept .finalize).retire.Represents M := h.congr rfl rfl rfl rfl
  refine ⟨?_, ?_, ?_⟩
  · rw [hdone]; rfl
  · rw [hdone]; rfl
  · rw [hdone]
    exact congrArg serialize haccept.completeFinalize_h

end

/-! ### The commands at the port -/

theorem exec_init {s : State} (h : s.phase = .idle) : exec .init s = .next (s.accept .init).retire :=
  finishUnlessBusy_idle _ ((busy_eq_false_iff s).2 h)

/-- UPDATE within the limit is accepted while Open, with the bytes of DATA (R76, R205). -/
theorem exec_update {s : State} {n : BitVec 2} (h : s.phase = .idle) (hc : s.closed = false)
    (hl : s.len.toNat + updateCount n ≤ maxLen) :
    exec (.update n) s = .next (s.accept (.update (latchBytes n s.data))).retire := by
  have hroom : ¬s.lengthExceeded (updateCount n) = true := by
    rw [lengthExceeded_iff]
    exact Nat.not_lt.2 hl
  have hissue : s.issueUpdate n = s.accept (.update (latchBytes n s.data)) := by
    rw [State.issueUpdate, if_neg (by rw [hc]; exact Bool.false_ne_true), if_neg hroom]
  rw [← hissue]
  exact finishUnlessBusy_idle _ ((busy_eq_false_iff s).2 h)

theorem exec_finalize {s : State} (h : s.phase = .idle) (hc : s.closed = false) :
    exec .finalize s = .next (s.accept .finalize).retire := by
  have hissue : s.issueFinalize = s.accept .finalize := if_neg (by rw [hc]; exact Bool.false_ne_true)
  rw [← hissue]
  exact finishUnlessBusy_idle _ ((busy_eq_false_iff s).2 h)

section
variable {s : State} {p : List Instr} {obs : List Word} {M : List Byte}

/-- `init`, from any state. -/
theorem State.AtPort.reaches_init (h : s.AtPort (.init :: p) obs) :
    ∃ t, s.Reaches t ∧ t.AtPort p obs ∧ t.Absorbs [] := by
  obtain ⟨l, r, hport, hexec⟩ := h.reaches_exec rfl rfl
  exact ⟨_, hexec _ (exec_init (complete_phase s)), (hport.accept .init).retire, absorbs_accept_init _⟩

/-- One push appends its bytes. -/
theorem State.AtPort.reaches_push {n : BitVec 2} {v : Word} (h : s.AtPort (pushProgram n v ++ p) obs)
    (hM : s.Absorbs M) (hl : (M ++ latchBytes n v).length ≤ maxLen) :
    ∃ t, s.Reaches t ∧ t.AtPort p obs ∧ t.Absorbs (M ++ latchBytes n v) := by
  rw [List.length_append] at hl
  obtain ⟨t, q, l, r, hwrite, hport, hdata, hcomplete⟩ := State.AtPort.reaches_writeData h
  obtain ⟨l', r', hidle, hexec⟩ := hport.reaches_exec rfl rfl
  rw [hdata, hcomplete] at hidle hexec
  obtain ⟨hopen, hrep⟩ := hM.after_complete v t.queue l' r'
  have hroom : s.complete.len.toNat + updateCount n ≤ maxLen := by
    rw [hM.represents.len_eq, updateCount, ← length_latchBytes n v]
    exact hl
  exact ⟨_, hwrite.trans (hexec _ (exec_update (complete_phase s) hopen hroom)), (hidle.accept _).retire,
    absorbs_accept_update hopen hrep hl⟩

/-- The pushes append their bytes, one after the other. -/
theorem State.AtPort.reaches_pushes {pushes : List (BitVec 2 × Word)}
    (h : s.AtPort (pushes.flatMap (fun e => pushProgram e.1 e.2) ++ p) obs) (hM : s.Absorbs M)
    (hl : (M ++ pushes.flatMap fun e => latchBytes e.1 e.2).length ≤ maxLen) :
    ∃ t, s.Reaches t ∧ t.AtPort p obs ∧ t.Absorbs (M ++ pushes.flatMap fun e => latchBytes e.1 e.2) := by
  induction pushes generalizing s M with
  | nil =>
    rw [List.flatMap_nil, List.append_nil]
    exact ⟨s, .refl s, h, hM⟩
  | cons e es ih =>
    rw [List.flatMap_cons, ← List.append_assoc] at hl ⊢
    rw [List.flatMap_cons, List.append_assoc] at h
    have hl' : (M ++ latchBytes e.1 e.2).length ≤ maxLen :=
      (List.length_append ▸ Nat.le_add_right _ _).trans hl
    obtain ⟨t, ht, hport, habs⟩ := h.reaches_push hM hl'
    obtain ⟨u, hu, hrest⟩ := ih hport habs hl
    exact ⟨u, ht.trans hu, hrest⟩

/-- `fin`. -/
theorem State.AtPort.reaches_finalize (h : s.AtPort (.finalize :: p) obs) (hM : s.Absorbs M) :
    ∃ t, s.Reaches t ∧ t.AtPort p obs ∧ t.Digests M := by
  obtain ⟨l, r, hport, hexec⟩ := h.reaches_exec rfl rfl
  obtain ⟨hopen, hrep⟩ := hM.after_complete s.data s.queue l r
  exact ⟨_, hexec _ (exec_finalize (complete_phase s) hopen), (hport.accept _).retire, digests_accept_finalize hrep⟩

/-! ### Reading the digest (R191, R215) -/

/-- Reads of the digest words of an idle engine return them in order, and leave the engine as it is. -/
theorem State.AtPort.reaches_reads {is : List (BitVec 3)} (h : s.AtPort (is.map .rdDigest) obs) (hidle : s.phase = .idle) :
    ∃ t, s.Reaches t ∧ t.AtPort [] (obs ++ is.map s.digestWord) ∧ t.phase = .idle ∧ t.closed = s.closed ∧
      t.dvalid = s.dvalid := by
  induction is generalizing s obs with
  | nil =>
    rw [List.map_nil, List.append_nil]
    exact ⟨s, .refl s, h, hidle, rfl, rfl⟩
  | cons i is ih =>
    have hstep : step s = .next (s.tick.reply (s.digestWord i)) :=
      (h.step_eq rfl (completionDue_of_idle hidle)).trans (finishUnlessBusy_idle _ ((busy_eq_false_iff s).2 hidle))
    obtain ⟨t, ht, hport, hrest⟩ := ih (h.tick.reply (s.digestWord i)) hidle
    rw [List.append_assoc] at hport
    exact ⟨t, (State.Reaches.of_step hstep).trans ht, hport, hrest⟩

/-- With a digest, DIGEST0 to DIGEST7 are H[0] to H[7] (R42). -/
theorem digestWords_eq {s : State} (hc : s.closed = true) (hd : s.dvalid = true) :
    ((List.range 8).map (BitVec.ofNat 3)).map s.digestWord = s.h.toList := by
  apply List.ext_getElem
  · simp
  · intro i hi _
    have hi' : i < 8 := by simpa using hi
    simp [State.digestWord, hc, hd, Nat.mod_eq_of_lt hi']

/-- `rddigest` waits for the digest and reads it. -/
theorem State.AtPort.reaches_digest (h : s.AtPort rddigestProgram obs) (hM : s.Digests M) :
    ∃ t words, s.Reaches t ∧ t.AtPort [] (obs ++ words) ∧ t.phase = .idle ∧ t.closed = true ∧ t.dvalid = true ∧
      words.length = 8 ∧ digestOfReads words = sha256 M := by
  obtain ⟨l, r, hwait, hport⟩ := State.AtPort.reaches_complete (i := .rdDigest 0) h rfl rfl
  obtain ⟨t, hread, hend, hidle, hclosed, hdvalid⟩ :=
    State.AtPort.reaches_reads (is := (List.range 8).map (BitVec.ofNat 3)) hport (complete_phase s)
  rw [digestWords_eq (s := s.complete.withHost s.data s.queue l r) hM.closed_eq hM.dvalid_eq] at hend
  exact ⟨t, _, hwait.trans hread, hend, hidle, hclosed.trans hM.closed_eq, hdvalid.trans hM.dvalid_eq,
    Vector.length_toList, hM.serialize_h⟩

end

/-- Settles O58: INIT waits out whatever is pending and starts the empty message, each push appends its bytes, FINALIZE
leaves the digest, and the first read waits for it. -/
theorem pushedMessageHashes : Obligations.PushedMessageHashes := by
  unfold Obligations.PushedMessageHashes
  intro s pushes hl hreset hq
  rw [List.append_assoc, List.append_assoc] at hq
  have hport : s.AtPort (.init :: (pushes.flatMap (fun e => pushProgram e.1 e.2) ++ .finalize :: rddigestProgram))
      s.observation := ⟨hreset, hq, rfl⟩
  obtain ⟨t₁, h₁, hport₁, habs₁⟩ := hport.reaches_init
  obtain ⟨t₂, h₂, hport₂, habs₂⟩ := hport₁.reaches_pushes habs₁ hl
  obtain ⟨t₃, h₃, hport₃, hdig⟩ := hport₂.reaches_finalize habs₂
  obtain ⟨t, words, h₄, hend, hidle, hclosed, hdvalid, hlen, hdigest⟩ := hport₃.reaches_digest hdig
  obtain ⟨n, hn⟩ := h₁.trans (h₂.trans (h₃.trans h₄))
  exact ⟨n, t, words, hn, ⟨hend.queue_eq, (busy_eq_false_iff t).2 hidle⟩, hclosed, hdvalid, hend.results_eq, hlen, hdigest⟩

end Sys2Proof.Machine
end

section
/-! The `hash` pseudo-instruction (45_host_commands.md R221): it is `init`, the pushes of its string's groups, `fin` and
`rddigest`, and each group's bytes are the ones its UPDATE latches. -/

namespace Sys2Proof.Machine

/-! ### The bytes of a packed group (R76, R82) -/

/-- The byte at bit k of a word, as a base-256 digit. -/
theorem extractLsb'_eq_of_digit {w : Nat} {v : BitVec w} {k : Nat} {b : Byte} (h : v.toNat / 2 ^ k % 2 ^ 8 = b.toNat) :
    v.extractLsb' k 8 = b := by
  apply BitVec.eq_of_toNat_eq
  rw [BitVec.extractLsb'_toNat, Nat.shiftRight_eq_div_pow, h]

/-- A big-endian word written out gives back the four bytes it was read from (R11). -/
theorem be32bytes_be32 (P : List Byte) (i : Nat) :
    be32bytes (be32 P i) = [byteAt P i, byteAt P (i + 1), byteAt P (i + 2), byteAt P (i + 3)] := by
  have hword := toNat_be32 P i
  have h0 := (byteAt P i).isLt
  have h1 := (byteAt P (i + 1)).isLt
  have h2 := (byteAt P (i + 2)).isLt
  have h3 := (byteAt P (i + 3)).isLt
  rw [be32bytes, extractLsb'_eq_of_digit (k := 24) (b := byteAt P i) (by omega),
    extractLsb'_eq_of_digit (k := 16) (b := byteAt P (i + 1)) (by omega),
    extractLsb'_eq_of_digit (k := 8) (b := byteAt P (i + 2)) (by omega),
    extractLsb'_eq_of_digit (k := 0) (b := byteAt P (i + 3)) (by omega)]

/-- The bytes an UPDATE latches from a packed word are the group's own, as many as it counts. -/
theorem latchBytes_packGroup (nbm1 : BitVec 2) (g : List Byte) :
    latchBytes nbm1 (packGroup g) = [byteAt g 0, byteAt g 1, byteAt g 2, byteAt g 3].take (updateCount nbm1) := by
  rw [latchBytes, packGroup, be32bytes_be32]

/-! ### The pushes of `absorb` (R82) -/

/-- The pushes that `absorb` expands to: the 4-byte groups in order, then the bytes that remain. -/
def absorbPushes : List Byte → List (BitVec 2 × Word)
  | [] => []
  | [a] => [(0, packGroup [a])]
  | [a, b] => [(1, packGroup [a, b])]
  | [a, b, c] => [(2, packGroup [a, b, c])]
  | a :: b :: c :: d :: rest => (3, packGroup [a, b, c, d]) :: absorbPushes rest

theorem absorbProgram_eq (m : List Byte) :
    absorbProgram m = (absorbPushes m).flatMap fun e => pushProgram e.1 e.2 := by
  induction m using absorbPushes.induct with
  | case1 | case2 a | case3 a b | case4 a b c => rfl
  | case5 a b c d rest ih => rw [absorbProgram, absorbPushes, List.flatMap_cons, ih]

/-- What the pushes of `absorb` latch is its string. -/
theorem flatMap_latchBytes_absorbPushes (m : List Byte) :
    (absorbPushes m).flatMap (fun e => latchBytes e.1 e.2) = m := by
  induction m using absorbPushes.induct with
  | case1 => rfl
  | case2 a | case3 a b | case4 a b c =>
    rw [absorbPushes, List.flatMap_singleton, latchBytes_packGroup]
    rfl
  | case5 a b c d rest ih =>
    rw [absorbPushes, List.flatMap_cons, ih, latchBytes_packGroup]
    rfl

/-- Settles O59: `hash "m"` is a program of pushes (O58) whose bytes are m's. -/
theorem hashProgramGivesSha256 : Obligations.HashProgramGivesSha256 := by
  unfold Obligations.HashProgramGivesSha256
  intro s m hl hreset hq
  rw [hashProgram, absorbProgram_eq] at hq
  have hhash := pushedMessageHashes s (absorbPushes m)
  rw [flatMap_latchBytes_absorbPushes] at hhash
  exact hhash hl hreset hq

end Sys2Proof.Machine
end

section
/-! Bad accesses (45_host_commands.md R219): the decoder refuses them by name, and a refusal is the outcome of every run that
takes the step. -/

namespace Sys2Proof

/-- An access that touches the window is no transaction of the engine when it is misaligned, not 4 bytes wide or across an
edge of the window. -/
theorem decode_bad_access {base : Nat} {a : Access} (ho : outsideWindow base a = false)
    (hbad : (accessAddr a - base) % 4 ≠ 0 ∨ accessWidth a ≠ 4 ∨ accessAddr a < base ∨
      base + 64 < accessAddr a + accessWidth a) :
    ∃ e, decode base a = .error e ∧ e ≠ .outsideWindow := by
  rw [decode, if_neg (by rw [ho]; exact Bool.false_ne_true)]
  by_cases hs : straddlesWindow base a = true
  · rw [if_pos hs]
    exact ⟨_, rfl, nofun⟩
  · rw [if_neg hs]
    by_cases hw : accessWidth a ≠ 4
    · rw [if_pos hw]
      exact ⟨_, rfl, nofun⟩
    · rw [straddlesWindow_iff] at hs
      have halign : (accessKey (accessDir a) (accessAddr a - base)).toNat % 4 ≠ 0 := by
        rw [accessKey_align]
        tauto
      rw [if_neg hw, decodeKey_of_misaligned halign]
      exact ⟨_, rfl, nofun⟩

end Sys2Proof

namespace Sys2Proof.Machine

/-- Every decoder error but the one of an access outside the window is a refusal. -/
theorem rejectAccess_refuses {e : DecodeError} (h : e ≠ .outsideWindow) : ∃ r, rejectAccess e = .refused r := by
  cases e with
  | outsideWindow => exact absurd rfl h
  | straddling | badWidth | misaligned => exact ⟨_, rfl⟩

/-- Settles O6: the decoder gives such an access no instruction, and a run stops at the refusal. -/
theorem badAccessRefused : Obligations.BadAccessRefused := by
  unfold Obligations.BadAccessRefused
  intro s a rest hq hr hc ho hbad
  obtain ⟨e, hdecode, hne⟩ := decode_bad_access ho hbad
  obtain ⟨r, hrefuse⟩ := rejectAccess_refuses hne
  have hstep : step s = .refused r := (step_rejects hr hc hq hdecode).trans hrefuse
  exact ⟨r, hstep, core_run_refused hstep⟩

end Sys2Proof.Machine
end

section
/-! The register accesses (45_host_commands.md R212 to R218): what each read returns and what each write leaves. -/

namespace Sys2Proof.Machine

/-! ### DATA (R212, R213) -/

theorem exec_wrData (v : Word) (s : State) :
    exec (.wrData v) s = .next { s with data := v, queue := s.queue.tail } := rfl

theorem exec_rdData (s : State) : exec .rdData s = .next (s.reply s.data) := rfl

/-- Settles O18: a write of DATA has no effect but its own, and the read after it returns the word. -/
theorem writeDataStores : Obligations.WriteDataStores := by
  unfold Obligations.WriteDataStores
  intro v s
  exact ⟨exec_wrData v s, _, _, exec_wrData v s, exec_rdData _, rfl, rfl, rfl⟩

/-- Settles O19: a read of DATA returns it, whatever BUSY is. -/
theorem readDataReturnsData : Obligations.ReadDataReturnsData := by
  unfold Obligations.ReadDataReturnsData
  exact ⟨exec_rdData, exec_rdData State.reset⟩

/-! ### STATUS (R214) -/

/-- Six flags at bits 5:0 do not overlap, so they add up. -/
theorem toNat_or_flagBits : ∀ b0 b1 b2 b3 b4 b5 : Bool,
    (flagBit b0 0 ||| flagBit b1 1 ||| flagBit b2 2 ||| flagBit b3 3 ||| flagBit b4 4 ||| flagBit b5 5).toNat =
      b0.toNat + 2 * b1.toNat + 4 * b2.toNat + 8 * b3.toNat + 16 * b4.toNat + 32 * b5.toNat := by
  decide

theorem toNat_statusWord (s : State) :
    s.statusWord.toNat = s.closed.toNat + 2 * s.dvalid.toNat + 4 * s.busy.toNat + 8 * s.errState.toNat +
      16 * s.errLength.toNat + 32 * s.errCmd.toNat :=
  toNat_or_flagBits _ _ _ _ _ _

/-- A word whose bits 5:0 are the flags, and whose other bits are 0, is the STATUS word. -/
theorem statusWord_eq_of_toNat {s : State} {x : Word}
    (h : s.closed.toNat + 2 * s.dvalid.toNat + 4 * s.busy.toNat + 8 * s.errState.toNat + 16 * s.errLength.toNat +
      32 * s.errCmd.toNat = x.toNat) : s.statusWord = x :=
  BitVec.eq_of_toNat_eq ((toNat_statusWord s).trans h)

theorem exec_rdStatus (s : State) : exec .rdStatus s = .next (s.reply s.statusWord) := rfl

/-- Settles O20: the six flags have a bit each, so the word is their sum; the common values are that sum at fixed flags. -/
theorem readStatusPacksFlags : Obligations.ReadStatusPacksFlags := by
  unfold Obligations.ReadStatusPacksFlags
  refine ⟨fun s => ⟨s.statusWord, exec_rdStatus s, toNat_statusWord s⟩, fun s hstate hlength hcmd =>
    ⟨fun hclosed hdvalid hbusy => ?opened, fun hclosed hdvalid hbusy => ?openedBusy, fun hclosed hdvalid hbusy => ?digest⟩,
    fun s hclosed hdvalid hbusy hstate hlength hcmd => ?overflow⟩
  case opened | openedBusy | digest | overflow =>
    apply statusWord_eq_of_toNat
    rw [hclosed, hdvalid, hbusy, hstate, hlength, hcmd]
    rfl

/-! ### Reads of 0 and ignored writes (R216, R217, R218) -/

/-- Settles O22: each read replies 0, and each write only ends, whatever BUSY and the operand are. -/
theorem zeroReadsAndIgnoredWrites : Obligations.ZeroReadsAndIgnoredWrites := by
  unfold Obligations.ZeroReadsAndIgnoredWrites
  refine ⟨fun s => ?rdCmd, fun s => ?rdRsvd0C, fun w s => ?rdRsvd1X, fun v s => ?wrStatus, fun i v s => ?wrDigest,
    fun v s => ?wrRsvd0C, fun w v s => ?wrRsvd1X⟩
  case rdCmd | rdRsvd0C | rdRsvd1X | wrStatus | wrDigest | wrRsvd0C | wrRsvd1X => rfl

end Sys2Proof.Machine
end

section
/-! The commands INIT, UPDATE and FINALIZE (45_host_commands.md R204 to R210): each accepted or rejected at its write, and the
engine its completion leaves. -/

namespace Sys2Proof.Machine

/-! ### Rejected commands (R206, R208, R210) -/

theorem exec_update_closed {s : State} (nbm1 : BitVec 2) (hb : s.busy = false) (hc : s.closed = true) :
    exec (.update nbm1) s = .next (s.raise .stateError).retire := by
  have hissue : s.issueUpdate nbm1 = s.raise .stateError := if_pos hc
  rw [← hissue]
  exact finishUnlessBusy_idle _ hb

theorem exec_finalize_closed {s : State} (hb : s.busy = false) (hc : s.closed = true) :
    exec .finalize s = .next (s.raise .stateError).retire := by
  have hissue : s.issueFinalize = s.raise .stateError := if_pos hc
  rw [← hissue]
  exact finishUnlessBusy_idle _ hb

theorem exec_update_overflow {s : State} {nbm1 : BitVec 2} (hb : s.busy = false) (hc : s.closed = false)
    (hl : maxLen < s.len.toNat + updateCount nbm1) :
    exec (.update nbm1) s = .next (s.raise .lengthOverflow).retire := by
  have hissue : s.issueUpdate nbm1 = s.raise .lengthOverflow := by
    rw [State.issueUpdate, if_neg (by rw [hc]; exact Bool.false_ne_true), if_pos ((lengthExceeded_iff _ _).2 hl)]
  rw [← hissue]
  exact finishUnlessBusy_idle _ hb

/-- DIGESTi is a view of H, CLOSED and DVALID alone (R42). -/
theorem digestWord_congr {s t : State} (hh : t.h = s.h) (hc : t.closed = s.closed) (hd : t.dvalid = s.dvalid)
    (i : BitVec 3) : t.digestWord i = s.digestWord i := by
  simp only [State.digestWord, hh, hc, hd]

/-- DIGESTi reads 0 when DVALID = 0 (R42). -/
theorem digestWord_of_not_dvalid {s : State} (h : s.dvalid = false) (i : BitVec 3) : s.digestWord i = 0 := by
  simp [State.digestWord, h]

/-- With a digest, DIGESTi is word i of the serialized H (R42, R191). -/
theorem digestWord_eq_be32_serialize {s : State} (hc : s.closed = true) (hd : s.dvalid = true) (i : BitVec 3) :
    s.digestWord i = be32 (serialize s.h) (4 * i.toNat) := by
  rw [be32_serialize s.h i.isLt, State.digestWord, hc, hd]
  rfl

/-- Settles O27: Closed is UPDATE's first check, and StateError sets its bit alone. -/
theorem updateWhileClosed : Obligations.UpdateWhileClosed := by
  unfold Obligations.UpdateWhileClosed
  intro nbm1 s hb hc
  exact ⟨_, exec_update_closed nbm1 hb hc, rfl, hb, digestWord_congr rfl rfl rfl⟩

/-- Settles O28: Closed is FINALIZE's one check, and StateError sets its bit alone, which leaves STATUS with CLOSED, DVALID and
ERR_STATE. -/
theorem finalizeWhileClosed : Obligations.FinalizeWhileClosed := by
  unfold Obligations.FinalizeWhileClosed
  intro s hb hc
  refine ⟨_, exec_finalize_closed hb hc, rfl, digestWord_congr rfl rfl rfl, fun hdvalid hlength hcmd => ?status⟩
  case status =>
    rw [statusWord_retire]
    apply statusWord_eq_of_toNat
    rw [raise_stateError_closed, raise_stateError_dvalid, busy_raise,
      raise_stateError_errState, raise_stateError_errLength, raise_stateError_errCmd, hb, hc, hdvalid, hlength, hcmd]
    rfl

/-! ### A Closed engine (R208, R222) -/

/-- No transaction by itself changes the digest of a Closed engine, or opens it. -/
theorem exec_keeps_closed {i : Instr} {s t : State} (h : exec i s = .next t) (hc : s.closed = true) :
    t.h = s.h ∧ t.closed = true ∧ t.dvalid = s.dvalid := by
  obtain ⟨-, -, rfl⟩ | ⟨-, v, rfl⟩ | ⟨d, -, rfl⟩ | ⟨-, -, rfl⟩ | ⟨-, -, -, u, hissued, rfl⟩ := exec_cases h
  case inl | inr.inl | inr.inr.inl | inr.inr.inr.inl => exact ⟨rfl, hc, rfl⟩
  case inr.inr.inr.inr =>
    obtain ⟨e, rfl, -, hopen⟩ | ⟨p, rfl, -⟩ := hissued
    · cases e with
      | lengthOverflow => exact absurd (hc.symm.trans (hopen rfl)) nofun
      | stateError | illegalCommand => exact ⟨rfl, hc, rfl⟩
    · exact ⟨rfl, hc, rfl⟩

/-- The one command that can be pending while Closed is INIT. -/
theorem State.PendingLegal.eq_init {s : State} {p : Pending} (h : s.PendingLegal) (hc : s.closed = true)
    (hp : s.phase = .busy p) : p = .init := by
  cases p with
  | init => rfl
  | update bytes =>
    simp only [State.PendingLegal, hp] at h
    exact absurd (hc.symm.trans h.1) nofun
  | finalize =>
    simp only [State.PendingLegal, hp] at h
    exact absurd (hc.symm.trans h) nofun

theorem busy_of_completionDue {s : State} (h : s.completionDue = true) : s.busy = true :=
  (Bool.and_eq_true_iff.1 h).1

/-- Settles O41: while Closed the only completion that can come is INIT's, and no transaction touches what a digest read
sees. -/
theorem digestStable : Obligations.DigestStable := by
  unfold Obligations.DigestStable
  intro s t hinv hc hstep hreset hinit
  have hkeep : t.h = s.h ∧ t.closed = true ∧ t.dvalid = s.dvalid := by
    obtain ⟨hr, -⟩ | ⟨-, hdue, -⟩ | ⟨-, -, -, rfl⟩ | ⟨-, -, a, rest, i, -, -, hexec⟩ := step_cases hstep
    case inl => exact absurd (hreset.symm.trans hr) nofun
    case inr.inl =>
      obtain ⟨p, hp⟩ := (busy_eq_true_iff s).1 (busy_of_completionDue hdue)
      obtain rfl := hinv.pending_legal.eq_init hc hp
      exact absurd ⟨hdue, hp⟩ hinit
    case inr.inr.inl => exact ⟨rfl, hc, rfl⟩
    case inr.inr.inr => exact exec_keeps_closed (s := s.tick) hexec hc
  obtain ⟨hh, hclosed, hdvalid⟩ := hkeep
  exact ⟨hh, hclosed, hdvalid, digestWord_congr hh (hclosed.trans hc.symm) hdvalid⟩

/-- Settles O29: past the limit UPDATE raises LengthOverflow, which closes the engine, and a Closed engine rejects the next
UPDATE and FINALIZE; at the limit UPDATE is accepted. -/
theorem updateBeyondLimit : Obligations.UpdateBeyondLimit := by
  unfold Obligations.UpdateBeyondLimit
  refine ⟨fun nbm1 s hb hc hl => ?beyond, fun nbm1 s hb hc hl => ?limit, by decide⟩
  case beyond =>
    have hbusy : (s.raise .lengthOverflow).retire.busy = false := hb
    refine ⟨_, exec_update_overflow hb hc hl, rfl, digestWord_of_not_dvalid rfl,
      fun m => exec_update_closed m hbusy rfl, exec_finalize_closed hbusy rfl, fun i u hu => ?_⟩
    obtain ⟨-, hclosed, -⟩ := exec_keeps_closed hu rfl
    exact hclosed
  case limit => exact ⟨_, exec_update ((busy_eq_false_iff s).1 hb) hc hl.le, rfl⟩

/-! ### Accepted commands and their completions (R204, R205, R209) -/

/-- Settles O25: INIT has no check, and its completion leaves the opened engine with no byte. -/
theorem initCommand : Obligations.InitCommand := by
  unfold Obligations.InitCommand
  intro s hb
  refine ⟨(decodeCommand_eq_init_iff _).2 rfl, (s.accept .init).retire, exec_init ((busy_eq_false_iff s).1 hb), rfl, ?_⟩
  have hrep := (absorbs_accept_init s).represents
  rw [complete_init (s := (s.accept .init).retire) rfl] at hrep ⊢
  exact ⟨rfl, rfl, rfl, hrep, rfl, rfl, rfl, rfl, rfl, rfl, statusWord_eq_zero rfl rfl rfl rfl rfl rfl, rfl,
    digestWord_of_open rfl⟩

/-- The latched bytes are the first ones of DATA (R76). -/
theorem byteAt_latchBytes {nbm1 : BitVec 2} {k : Nat} (d : Word) (hk : k < nbm1.toNat + 1) :
    byteAt (latchBytes nbm1 d) k = byteAt (be32bytes d) k := by
  rw [byteAt, latchBytes, List.getD_eq_getElem?_getD, List.getElem?_take_of_lt (show k < updateCount nbm1 from hk),
    ← List.getD_eq_getElem?_getD, byteAt]

/-- UPDATE latches no bit of DATA below its bytes (R76, R205). -/
theorem latchBytes_congr {nbm1 : BitVec 2} {d d' : Word}
    (h : d.toNat / 256 ^ (3 - nbm1.toNat) = d'.toNat / 256 ^ (3 - nbm1.toNat)) :
    latchBytes nbm1 d = latchBytes nbm1 d' := by
  have := nbm1.isLt
  apply List.ext_getElem
  · rw [length_latchBytes, length_latchBytes]
  · intro k hk hk'
    rw [← byteAt_eq_getElem hk, ← byteAt_eq_getElem hk']
    rw [length_latchBytes] at hk
    have hsplit : 256 ^ (3 - k) = 256 ^ (3 - nbm1.toNat) * 256 ^ (nbm1.toNat - k) := by
      rw [← Nat.pow_add]
      congr 1
      omega
    apply BitVec.eq_of_toNat_eq
    rw [byteAt_latchBytes d hk, byteAt_latchBytes d' hk, toNat_byteAt_be32bytes d (by omega),
      toNat_byteAt_be32bytes d' (by omega), hsplit, ← Nat.div_div_eq_div_mul, ← Nat.div_div_eq_div_mul, h]

/-- Within the limit LEN + n does not wrap (R205). -/
theorem toNat_completeUpdate_len {s : State} {bytes : List Byte} (h : s.len.toNat + bytes.length ≤ maxLen) :
    (s.completeUpdate bytes).len.toNat = s.len.toNat + bytes.length := by
  have hmax : maxLen = 2 ^ 61 - 1 := rfl
  rw [completeUpdate_len, BitVec.toNat_add, BitVec.toNat_ofNat]
  omega

/-- Settles O26: an accepted UPDATE has latched its bytes, so its completion absorbs those, and they are the leading
digits of DATA. -/
theorem updateCommand : Obligations.UpdateCommand := by
  unfold Obligations.UpdateCommand
  refine ⟨fun nbm1 s hb hc hl => ⟨decodeCommand_updateWord nbm1, (s.accept (.update (latchBytes nbm1 s.data))).retire,
    latchBytes nbm1 s.data, exec_update ((busy_eq_false_iff s).1 hb) hc hl, rfl, length_latchBytes nbm1 s.data, ?bytes,
    fun v => ⟨_, exec_wrData v _, rfl, rfl⟩, ?completion⟩, fun nbm1 d d' h => latchBytes_congr h⟩
  case bytes =>
    intro k hk
    rw [length_latchBytes] at hk
    have := nbm1.isLt
    rw [byteAt_latchBytes s.data hk, toNat_byteAt_be32bytes s.data (by omega)]
  case completion =>
    rw [← length_latchBytes nbm1 s.data] at hl ⊢
    generalize latchBytes nbm1 s.data = bytes at hl ⊢
    rw [complete_update (s := (s.accept (.update bytes)).retire) rfl]
    exact ⟨toNat_completeUpdate_len hl, rfl, rfl, rfl, rfl, completeUpdate_data _ _,
      (completeUpdate_closed _ _).trans hc, completeUpdate_dvalid _ _, completeUpdate_errState _ _,
      completeUpdate_errLength _ _, completeUpdate_errCmd _ _⟩

/-- Settles O30: while Open FINALIZE is accepted, and its completion folds the tail's blocks into H and shows it. -/
theorem finalizeCommand : Obligations.FinalizeCommand := by
  unfold Obligations.FinalizeCommand
  intro s hb hc
  refine ⟨(decodeCommand_eq_finalize_iff _).2 rfl, (s.accept .finalize).retire,
    exec_finalize ((busy_eq_false_iff s).1 hb) hc, rfl, ?_⟩
  rw [complete_finalize (s := (s.accept .finalize).retire) rfl]
  exact ⟨completeFinalize_h _, length_padTail _ _ s.bufcnt.isLt, digestWord_eq_be32_serialize rfl rfl, rfl, rfl, rfl,
    completeFinalize_len _, completeFinalize_data _, completeFinalize_errState _, completeFinalize_errLength _,
    completeFinalize_errCmd _⟩

end Sys2Proof.Machine
end

section
/-! The errors (60_exceptions.md R240 to R247): which check of a command write applies first, what a rejected command leaves,
and what clears an ERR bit. -/

namespace Sys2Proof

/-- R74's legal words by their command. -/
theorem legal_word_cases {v : Word} (h : illegalCommand v = false) :
    v = 0x00000001 ∨ (∃ nbm1, v = updateWord nbm1) ∨ v = 0x00000003 := by
  obtain h | h | h | h | h | h := legal_cases h
  · exact .inl h
  · exact .inr (.inl ⟨0, h⟩)
  · exact .inr (.inl ⟨1, h⟩)
  · exact .inr (.inl ⟨2, h⟩)
  · exact .inr (.inl ⟨3, h⟩)
  · exact .inr (.inr h)

theorem updateWord_ne_one : ∀ nbm1 : BitVec 2, updateWord nbm1 ≠ 0x00000001 := by
  decide

theorem updateWord_ne_three : ∀ nbm1 : BitVec 2, updateWord nbm1 ≠ 0x00000003 := by
  decide

theorem updateWord_injective : ∀ m n : BitVec 2, updateWord m = updateWord n → m = n := by
  decide

theorem toNat_updateWord_div : ∀ nbm1 : BitVec 2, (updateWord nbm1).toNat / 16 = nbm1.toNat := by
  decide

end Sys2Proof

namespace Sys2Proof.Machine

/-! ### One command write while BUSY = 0 (R202, R245) -/

/-- The word of a write to CMD is an UPDATE of more bytes than LEN has room for (R208). -/
def State.WordOverflows (s : State) (v : Word) : Prop :=
  ∃ nbm1, v = updateWord nbm1 ∧ maxLen < s.len.toNat + updateCount nbm1

/-- The overflow check on the bits of the word: UPDATE's row of R74, and NBM1 in the bits above OP. -/
theorem wordOverflows_iff (s : State) (v : Word) :
    s.WordOverflows v ↔ v &&& 0xFFFFFFCF = 0x00000002 ∧ s.len.toNat + (v.toNat / 16 + 1) > 2 ^ 61 - 1 := by
  rw [and_mask_eq_iff]
  constructor
  · rintro ⟨nbm1, rfl, hl⟩
    rw [toNat_updateWord_div]
    exact ⟨⟨nbm1, rfl⟩, hl⟩
  · rintro ⟨⟨nbm1, rfl⟩, hl⟩
    rw [toNat_updateWord_div] at hl
    exact ⟨nbm1, rfl, hl⟩

theorem exec_next_unique {i : Instr} {s t u : State} (h : exec i s = .next t) (h' : exec i s = .next u) : t = u :=
  Host.Outcome.next.inj (h.symm.trans h')

/-- A write to CMD is the transaction its word decodes to (R70, R202). -/
theorem exec_wrCmd_eq_exec_decodeCommand (v : Word) (s : State) : exec (.wrCmd v) s = exec (decodeCommand v) s := by
  rw [exec_wrCmd, State.issueWord, decodeCommand]
  split_ifs with hillegal
  · rw [exec_wrCmd, issueWord_illegal hillegal]
  · rfl
  · rfl
  · rfl

/-- UPDATE's two checks in order, and its acceptance (R205, R206, R208). -/
theorem exec_update_cases {nbm1 : BitVec 2} {s t : State} (hb : s.busy = false) (h : exec (.update nbm1) s = .next t) :
    (s.closed = true ∧ t = (s.raise .stateError).retire) ∨
    (s.closed = false ∧ maxLen < s.len.toNat + updateCount nbm1 ∧ t = (s.raise .lengthOverflow).retire) ∨
    (s.closed = false ∧ s.len.toNat + updateCount nbm1 ≤ maxLen ∧
      t = (s.accept (.update (latchBytes nbm1 s.data))).retire) := by
  cases hc : s.closed with
  | true => exact .inl ⟨rfl, exec_next_unique h (exec_update_closed nbm1 hb hc)⟩
  | false =>
    by_cases hl : maxLen < s.len.toNat + updateCount nbm1
    · exact .inr (.inl ⟨rfl, hl, exec_next_unique h (exec_update_overflow hb hc hl)⟩)
    · have hroom := Nat.not_lt.1 hl
      exact .inr (.inr ⟨rfl, hroom, exec_next_unique h (exec_update ((busy_eq_false_iff s).1 hb) hc hroom)⟩)

/-- FINALIZE's check, and its acceptance (R209, R210). -/
theorem exec_finalize_cases {s t : State} (hb : s.busy = false) (h : exec .finalize s = .next t) :
    (s.closed = true ∧ t = (s.raise .stateError).retire) ∨
    (s.closed = false ∧ t = (s.accept .finalize).retire) := by
  cases hc : s.closed with
  | true => exact .inl ⟨rfl, exec_next_unique h (exec_finalize_closed hb hc)⟩
  | false => exact .inr ⟨rfl, exec_next_unique h (exec_finalize ((busy_eq_false_iff s).1 hb) hc)⟩

/-- Everything a write to CMD can do to an idle engine, with the checks that chose it: one of the three errors, each only when
those before it in R245's order do not apply, or an acceptance when none applies. -/
theorem exec_wrCmd_cases {v : Word} {s t : State} (hb : s.busy = false) (h : exec (.wrCmd v) s = .next t) :
    (illegalCommand v = true ∧ t = (s.raise .illegalCommand).retire) ∨
    (illegalCommand v = false ∧ (v ≠ 0x00000001 ∧ s.closed = true) ∧ t = (s.raise .stateError).retire) ∨
    (illegalCommand v = false ∧ s.closed = false ∧ s.WordOverflows v ∧ t = (s.raise .lengthOverflow).retire) ∨
    (illegalCommand v = false ∧ ¬(v ≠ 0x00000001 ∧ s.closed = true) ∧ ¬s.WordOverflows v ∧
      ∃ p, t = (s.accept p).retire) := by
  cases hv : illegalCommand v with
  | true => exact .inl ⟨rfl, exec_next_unique h (exec_wrCmd_illegal hv hb)⟩
  | false =>
    rw [exec_wrCmd_eq_exec_decodeCommand] at h
    obtain rfl | ⟨nbm1, rfl⟩ | rfl := legal_word_cases hv
    case inl =>
      rw [(decodeCommand_eq_init_iff _).2 rfl] at h
      have ht := exec_next_unique h (exec_init ((busy_eq_false_iff s).1 hb))
      have hover : ¬s.WordOverflows 0x00000001 := fun ⟨n, hn, _⟩ => updateWord_ne_one n hn.symm
      exact .inr (.inr (.inr ⟨rfl, fun hne => hne.1 rfl, hover, _, ht⟩))
    case inr.inl =>
      rw [decodeCommand_updateWord] at h
      obtain ⟨hc, rfl⟩ | ⟨hc, hl, rfl⟩ | ⟨hc, hl, rfl⟩ := exec_update_cases hb h
      · exact .inr (.inl ⟨rfl, ⟨updateWord_ne_one nbm1, hc⟩, rfl⟩)
      · exact .inr (.inr (.inl ⟨rfl, hc, ⟨nbm1, rfl, hl⟩, rfl⟩))
      · have hover : ¬s.WordOverflows (updateWord nbm1) := by
          rintro ⟨n, hn, hgt⟩
          obtain rfl := updateWord_injective _ _ hn
          exact Nat.not_lt.2 hl hgt
        exact .inr (.inr (.inr ⟨rfl, fun hne => absurd (hc.symm.trans hne.2) nofun, hover, _, rfl⟩))
    case inr.inr =>
      rw [(decodeCommand_eq_finalize_iff _).2 rfl] at h
      obtain ⟨hc, rfl⟩ | ⟨hc, rfl⟩ := exec_finalize_cases hb h
      · exact .inr (.inl ⟨rfl, ⟨by decide, hc⟩, rfl⟩)
      · have hover : ¬s.WordOverflows 0x00000003 := fun ⟨n, hn, _⟩ => updateWord_ne_three n hn.symm
        exact .inr (.inr (.inr ⟨rfl, fun hne => absurd (hc.symm.trans hne.2) nofun, hover, _, rfl⟩))

/-- Settles O32: the write's four outcomes are the four branches, and each sets its own ERR bit or none. -/
theorem errorPriority : Obligations.ErrorPriority := by
  unfold Obligations.ErrorPriority
  intro v s t hb h
  obtain ⟨hv, rfl⟩ | ⟨hv, hclosed, rfl⟩ | ⟨hv, hc, hover, rfl⟩ | ⟨hv, hopen, hroom, p, rfl⟩ := exec_wrCmd_cases hb h
  case inl =>
    rw [if_pos hv]
    exact ⟨rfl, rfl, rfl⟩
  case inr.inl =>
    rw [if_neg (by simp [hv]), if_pos hclosed]
    exact ⟨rfl, rfl, rfl⟩
  case inr.inr.inl =>
    rw [if_neg (by simp [hv]), if_neg (by simp [hc]), if_pos ((wordOverflows_iff s v).1 hover)]
    exact ⟨rfl, rfl, rfl⟩
  case inr.inr.inr =>
    rw [if_neg (by simp [hv]), if_neg hopen, if_neg (mt (wordOverflows_iff s v).2 hroom)]
    exact ⟨rfl, rfl, rfl⟩

/-! ### Rejected commands (R246) -/

/-- A command write that leaves BUSY 0 has raised an error, StateError only while Closed and LengthOverflow only while Open. -/
theorem exec_rejected_cases {i : Instr} {s t : State} (hheld : heldInstr i = true) (hwrite : readInstr i = false)
    (hb : s.busy = false) (h : exec i s = .next t) (ht : t.busy = false) :
    ∃ e, t = (s.raise e).retire ∧ (e = .stateError → s.closed = true) ∧ (e = .lengthOverflow → s.closed = false) := by
  obtain ⟨-, hbusy, -⟩ | ⟨hread, -⟩ | ⟨d, rfl, -⟩ | ⟨hfree, -, -⟩ | ⟨-, -, -, u, hissued, rfl⟩ := exec_cases h
  case inl => exact absurd (hb.symm.trans hbusy) nofun
  case inr.inl => exact absurd (hwrite.symm.trans hread) nofun
  case inr.inr.inl => exact absurd hheld nofun
  case inr.inr.inr.inl => exact absurd (hfree.symm.trans hheld) nofun
  case inr.inr.inr.inr =>
    obtain ⟨e, rfl, hclosed, hopen⟩ | ⟨p, rfl, -⟩ := hissued
    · exact ⟨e, rfl, hclosed, hopen⟩
    · exact absurd ht nofun

/-- Settles O33: a command that does not set BUSY has raised one error, whose next state is the one given, and an accepted
UPDATE has latched its bytes. -/
theorem errorsArePrecise : Obligations.ErrorsArePrecise := by
  unfold Obligations.ErrorsArePrecise
  refine ⟨fun i s t hheld hwrite hb h ht => ?rejected, fun v s t hb h ht => ?word, fun nbm1 s t hb h ht => ?accepted⟩
  case rejected =>
    obtain ⟨e, rfl, hclosed, hopen⟩ := exec_rejected_cases hheld hwrite hb h ht
    cases e with
    | illegalCommand => exact .inl rfl
    | stateError => exact .inr (.inl ⟨hclosed rfl, rfl⟩)
    | lengthOverflow => exact .inr (.inr ⟨hopen rfl, rfl⟩)
  case word =>
    obtain ⟨hv, rfl⟩ | ⟨hv, ⟨-, hc⟩, rfl⟩ | ⟨hv, hc, -, rfl⟩ | ⟨-, -, -, p, rfl⟩ := exec_wrCmd_cases hb h
    · exact .inl ⟨rfl, hv⟩
    · exact .inr (.inl ⟨rfl, hv, hc⟩)
    · exact .inr (.inr ⟨rfl, hv, hc⟩)
    · exact absurd ht nofun
  case accepted =>
    obtain ⟨-, rfl⟩ | ⟨-, -, rfl⟩ | ⟨-, -, rfl⟩ := exec_update_cases hb h
    · exact absurd (hb.symm.trans ht) nofun
    · exact absurd (hb.symm.trans ht) nofun
    · exact ⟨_, rfl, length_latchBytes nbm1 s.data⟩

/-! ### Sticky ERR bits (R247) -/

/-- Every ERR bit set in s is set in t. -/
def State.ErrorsKept (s t : State) : Prop :=
  (s.errState = true → t.errState = true) ∧ (s.errLength = true → t.errLength = true) ∧
    (s.errCmd = true → t.errCmd = true)

theorem raise_keeps_errors (s : State) (e : EngineError) : s.ErrorsKept (s.raise e) := by
  cases e with
  | stateError => exact ⟨fun _ => rfl, id, id⟩
  | lengthOverflow => exact ⟨id, fun _ => rfl, id⟩
  | illegalCommand => exact ⟨id, id, fun _ => rfl⟩

/-- No transaction by itself clears an ERR bit. -/
theorem exec_keeps_errors {i : Instr} {s t : State} (h : exec i s = .next t) : s.ErrorsKept t := by
  obtain ⟨-, -, rfl⟩ | ⟨-, v, rfl⟩ | ⟨d, -, rfl⟩ | ⟨-, -, rfl⟩ | ⟨-, -, -, u, hissued, rfl⟩ := exec_cases h
  case inl | inr.inl | inr.inr.inl | inr.inr.inr.inl => exact ⟨id, id, id⟩
  case inr.inr.inr.inr =>
    obtain ⟨e, rfl, -, -⟩ | ⟨p, rfl, -⟩ := hissued
    · exact raise_keeps_errors s e
    · exact ⟨id, id, id⟩

/-- Only INIT's completion writes an ERR bit. -/
theorem complete_keeps_errors {s : State} (h : s.phase ≠ .busy .init) : s.ErrorsKept s.complete := by
  match hp : s.phase with
  | .idle =>
    rw [State.complete, hp]
    exact ⟨id, id, id⟩
  | .busy .init => exact absurd hp h
  | .busy (.update bytes) =>
    rw [complete_update hp]
    exact ⟨(completeUpdate_errState bytes s).trans, (completeUpdate_errLength bytes s).trans,
      (completeUpdate_errCmd bytes s).trans⟩
  | .busy .finalize =>
    rw [complete_finalize hp]
    exact ⟨(completeFinalize_errState s).trans, (completeFinalize_errLength s).trans, (completeFinalize_errCmd s).trans⟩

/-- Settles O35: reset and INIT's completion clear the bits, and no other completion and no transaction does. -/
theorem errorBitsSticky : Obligations.ErrorBitsSticky := by
  unfold Obligations.ErrorBitsSticky
  intro s t hstep
  obtain ⟨hr, rfl⟩ | ⟨hr, hdue, rfl⟩ | ⟨hr, hdue, -, rfl⟩ | ⟨hr, hdue, a, rest, i, -, -, hexec⟩ := step_cases hstep
  case inl =>
    rw [if_pos (.inl hr)]
    exact ⟨rfl, rfl, rfl, rfl⟩
  case inr.inl =>
    by_cases hp : s.phase = .busy .init
    · rw [if_pos (.inr ⟨hdue, hp⟩), complete_init (s := s.tick) hp]
      exact ⟨rfl, rfl, rfl, rfl⟩
    · rw [if_neg (by simp [hr, hp])]
      exact complete_keeps_errors (s := s.tick) hp
  case inr.inr.inl =>
    rw [if_neg (by simp [hr, hdue])]
    exact ⟨id, id, id⟩
  case inr.inr.inr =>
    rw [if_neg (by simp [hr, hdue])]
    exact exec_keeps_errors (s := s.tick) hexec

end Sys2Proof.Machine
end

section
/-! Decode and encode agree (30_encoding.md sections 1 and 4), and the decoder reads an access by its offset from ENGINE_BASE
alone. -/

namespace Sys2Proof

/-- Settles O4: the encoder's key and data decode back, at every base, because only the offset reaches the decoder. -/
theorem decodeOfEncode : Obligations.DecodeOfEncode := by
  unfold Obligations.DecodeOfEncode
  intro base i hwf
  exact Machine.decode_encode hwf base

/-! ### Encode of decode (R70 to R72) -/

/-- The offset of a row's instruction does not depend on the write data. -/
theorem encodeOffset_buildInstr (op : AccessOp) (key : BitVec 7) (d d' : Word) :
    encodeOffset (buildInstr op key d) = encodeOffset (buildInstr op key d') := by
  cases op with
  | wrCmd => exact (encodeOffset_decodeCommand d).trans (encodeOffset_decodeCommand d').symm
  | rdCmd | rdData | rdStatus | rdRsvd0C | rdRsvd1X | rdDigest | wrData | wrStatus | wrRsvd0C | wrRsvd1X | wrDigest => rfl

/-- A writing row's instruction carries the write data whole. -/
theorem encodeData_buildInstr (op : AccessOp) (key : BitVec 7) (d d' : Word) :
    encodeData (buildInstr op key d) = (encodeData (buildInstr op key d')).map fun _ => d := by
  cases op with
  | wrCmd =>
    rw [buildInstr, buildInstr, encodeData_decodeCommand, encodeData_decodeCommand]
    rfl
  | rdCmd | rdData | rdStatus | rdRsvd0C | rdRsvd1X | rdDigest | wrData | wrStatus | wrRsvd0C | wrRsvd1X | wrDigest => rfl

theorem wf_buildInstr (op : AccessOp) (key : BitVec 7) (d : Word) : (buildInstr op key d).wf = true := by
  cases op with
  | wrCmd => exact wf_decodeCommand d
  | rdCmd | rdData | rdStatus | rdRsvd0C | rdRsvd1X | rdDigest | wrData | wrStatus | wrRsvd0C | wrRsvd1X | wrDigest => rfl

/-- R72's table, key by key: the row a key matches names the register at the key's offset, and writes it when DIR is 1. -/
theorem lookupKey_encodes : ∀ key : BitVec 7, ∀ op ∈ lookupKey key,
    encodeOffset (buildInstr op key 0) = key.toNat % 64 ∧
      encodeData (buildInstr op key 0) = if key.toNat < 64 then none else some 0 := by
  decide +kernel

theorem toNat_accessKey_read {off : Nat} (h : off < 64) : (accessKey .read off).toNat = off := by
  rw [accessKey, BitVec.toNat_ofNat]
  omega

theorem toNat_accessKey_write {off : Nat} (h : off < 64) : (accessKey .write off).toNat = 64 + off := by
  rw [accessKey, BitVec.toNat_ofNat]
  omega

/-- What a key decodes to is well-formed and has the key's offset, direction and write data. -/
theorem decodeKey_encodes {key : BitVec 7} {d : Word} {i : Instr} (h : decodeKey key d = .ok i) :
    i.wf = true ∧ encodeOffset i = key.toNat % 64 ∧ encodeData i = if key.toNat < 64 then none else some d := by
  cases hop : lookupKey key with
  | none =>
    rw [decodeKey, hop] at h
    cases h
  | some op =>
    rw [decodeKey_of_lookup hop] at h
    cases h
    obtain ⟨hoff, hdata⟩ := lookupKey_encodes key op hop
    refine ⟨wf_buildInstr op key d, (encodeOffset_buildInstr op key d 0).trans hoff, ?_⟩
    rw [encodeData_buildInstr op key d 0, hdata]
    split_ifs <;> rfl

/-- Settles O5: an accepted access is 4 bytes wide inside the window, and its key and data give back what it decodes to. -/
theorem encodeOfDecode : Obligations.EncodeOfDecode := by
  unfold Obligations.EncodeOfDecode
  intro base a i h
  obtain ⟨hlow, hhigh, hwidth, hkey⟩ := decode_ok_cases h
  obtain ⟨hwf, hoff, hdata⟩ := decodeKey_encodes hkey
  have hwindow : accessAddr a - base < 64 := by omega
  refine ⟨hwf, ?_⟩
  cases a with
  | rd addr width =>
    obtain rfl : width = 4 := hwidth
    rw [accessDir, toNat_accessKey_read hwindow, Nat.mod_eq_of_lt hwindow] at hoff
    rw [accessDir, toNat_accessKey_read hwindow, if_pos hwindow] at hdata
    rw [encode, hdata, hoff, Nat.add_sub_cancel' hlow, accessAddr]
  | wr addr width d =>
    obtain rfl : width = 4 := hwidth
    rw [accessDir, toNat_accessKey_write hwindow, Nat.add_mod_left, Nat.mod_eq_of_lt hwindow] at hoff
    rw [accessDir, toNat_accessKey_write hwindow, if_neg (by omega)] at hdata
    rw [encode, hdata, hoff, Nat.add_sub_cancel' hlow, accessAddr, accessData]

/-! ### The table's words (95_test_vectors.md section 2.1) -/

/-- Settles O8: each word is a fixed access, decoded. -/
theorem tableWordsDecode : Obligations.TableWordsDecode := by
  unfold Obligations.TableWordsDecode
  decide

/-- An access decodes the same at every base, its offset kept. -/
theorem decode_of_decode_zero {base : Nat} {a b : Access} {i : Instr} (haddr : accessAddr b = base + accessAddr a)
    (hwidth : accessWidth b = accessWidth a) (hdir : accessDir b = accessDir a) (hdata : accessData b = accessData a)
    (h : decode 0 a = .ok i) : decode base b = .ok i := by
  obtain ⟨-, hhigh, hfour, hkey⟩ := decode_ok_cases h
  rw [decode_in_window (by omega) (by omega) (hwidth.trans hfour), haddr, Nat.add_sub_cancel_left, hdir, hdata]
  exact hkey

theorem decode_tableAccess {nbits w : Nat} {i : Instr} (h : decodeTableWord nbits w = some i) (base : Nat) :
    decode base (tableAccess base nbits w) = .ok i := by
  have hzero : decode 0 (tableAccess 0 nbits w) = .ok i := by
    unfold decodeTableWord at h
    split at h
    case h_1 j hj => rw [hj, Option.some.inj h]
    case h_2 => cases h
  refine decode_of_decode_zero ?_ ?_ ?_ ?_ hzero
  all_goals
    unfold tableAccess
    split_ifs <;> simp only [accessAddr, accessWidth, accessDir, accessData, Nat.zero_add, Nat.add_zero, Nat.add_assoc]

end Sys2Proof

namespace Sys2Proof.Machine

/-! ### An access outside the window (R51) -/

/-- Settles O7: the decoder's first check. -/
theorem outsideWindowFaults : Obligations.OutsideWindowFaults := by
  unfold Obligations.OutsideWindowFaults
  intro s a rest hq hr hc hout
  have hdecode : decode s.engineBase a = .error .outsideWindow := if_pos ((outsideWindow_iff _ a).2 hout)
  rw [step_rejects hr hc hq hdecode, rejectAccess]

end Sys2Proof.Machine
end

section
/-! The frame of one transaction and of one step (10_state.md R23; 20_memory.md R52; 45_host_commands.md R203). -/

namespace Sys2Proof.Machine

/-! ### One transaction -/

/-- The part of the frame that every transaction leaves alone: the hash engine, ENGINE_BASE and the reset signal. -/
structure State.SameEngine (s t : State) : Prop where
  h_eq : t.h = s.h
  work_eq : t.work = s.work
  w_eq : t.w = s.w
  round_eq : t.round = s.round
  buf_eq : t.buf = s.buf
  bufcnt_eq : t.bufcnt = s.bufcnt
  len_eq : t.len = s.len
  baseBlock_eq : t.baseBlock = s.baseBlock
  resetLine_eq : t.resetLine = s.resetLine

/-- A command write leaves the engine, DATA and the port alone: raising an error and accepting a command do. -/
theorem State.Issued.frame {s u : State} (h : s.Issued u) :
    s.SameEngine u ∧ u.data = s.data ∧ u.queue = s.queue ∧ u.results = s.results := by
  obtain ⟨e, rfl, -, -⟩ | ⟨p, rfl, -⟩ := h
  · cases e with
    | stateError | lengthOverflow | illegalCommand => exact ⟨⟨rfl, rfl, rfl, rfl, rfl, rfl, rfl, rfl, rfl⟩, rfl, rfl, rfl⟩
  · exact ⟨⟨rfl, rfl, rfl, rfl, rfl, rfl, rfl, rfl, rfl⟩, rfl, rfl, rfl⟩

theorem exec_sameEngine {i : Instr} {s t : State} (h : exec i s = .next t) : s.SameEngine t := by
  obtain ⟨-, -, rfl⟩ | ⟨-, v, rfl⟩ | ⟨d, -, rfl⟩ | ⟨-, -, rfl⟩ | ⟨-, -, -, u, hissued, rfl⟩ := exec_cases h
  case inl | inr.inl | inr.inr.inl | inr.inr.inr.inl => exact ⟨rfl, rfl, rfl, rfl, rfl, rfl, rfl, rfl, rfl⟩
  case inr.inr.inr.inr =>
    obtain ⟨⟨hh, hwork, hw, hround, hbuf, hbufcnt, hlen, hbase, hreset⟩, -⟩ := hissued.frame
    exact ⟨hh, hwork, hw, hround, hbuf, hbufcnt, hlen, hbase, hreset⟩

/-- Only WR_DATA writes DATA (R212). -/
theorem exec_data {i : Instr} {s t : State} (h : exec i s = .next t) (hi : ∀ v, i ≠ .wrData v) : t.data = s.data := by
  obtain ⟨-, -, rfl⟩ | ⟨-, v, rfl⟩ | ⟨d, hd, -⟩ | ⟨-, -, rfl⟩ | ⟨-, -, -, u, hissued, rfl⟩ := exec_cases h
  case inl | inr.inl | inr.inr.inr.inl => rfl
  case inr.inr.inl => exact absurd hd (hi d)
  case inr.inr.inr.inr =>
    obtain ⟨-, hdata, -, -⟩ := hissued.frame
    exact hdata

/-- Only a read returns a word (R57, R223). -/
theorem exec_results {i : Instr} {s t : State} (h : exec i s = .next t) (hi : readInstr i = false) :
    t.results = s.results := by
  obtain ⟨-, -, rfl⟩ | ⟨hread, -⟩ | ⟨d, -, rfl⟩ | ⟨-, -, rfl⟩ | ⟨-, -, -, u, hissued, rfl⟩ := exec_cases h
  case inl | inr.inr.inl | inr.inr.inr.inl => rfl
  case inr.inl => exact absurd (hi.symm.trans hread) nofun
  case inr.inr.inr.inr =>
    obtain ⟨-, -, -, hresults⟩ := hissued.frame
    exact hresults

/-- The transactions that R201 holds and that return no word are the writes to CMD. -/
theorem command_cases {i : Instr} (hheld : heldInstr i = true) (hwrite : readInstr i = false) :
    i = .init ∨ (∃ n, i = .update n) ∨ i = .finalize ∨ ∃ v, i = .wrCmd v := by
  cases i with
  | init => exact .inl rfl
  | update n => exact .inr (.inl ⟨n, rfl⟩)
  | finalize => exact .inr (.inr (.inl rfl))
  | wrCmd v => exact .inr (.inr (.inr ⟨v, rfl⟩))
  | rdDigest _ => cases hwrite
  | rdCmd | rdData | rdStatus | rdRsvd0C | rdRsvd1X _ | wrData _ | wrStatus _ | wrRsvd0C _ | wrRsvd1X _ _
  | wrDigest _ _ => cases hheld

/-- A transaction that is no write to CMD changes neither SEQ nor a flag. -/
theorem exec_sequencer {i : Instr} {s t : State} (h : exec i s = .next t) (hi : heldInstr i = false ∨ readInstr i = true) :
    t.phase = s.phase ∧ t.statusWord = s.statusWord ∧ t.latencyLeft = s.latencyLeft ∧ t.freeCount = s.freeCount := by
  obtain ⟨-, -, rfl⟩ | ⟨-, v, rfl⟩ | ⟨d, -, rfl⟩ | ⟨-, -, rfl⟩ | ⟨hheld, hwrite, -⟩ := exec_cases h
  case inl | inr.inl | inr.inr.inl | inr.inr.inr.inl => exact ⟨rfl, rfl, rfl, rfl⟩
  case inr.inr.inr.inr =>
    rw [hheld, hwrite] at hi
    exact absurd hi (by decide)

/-- Settles O36: what every transaction leaves alone, then who writes DATA, returns a word, and touches SEQ or a flag. -/
theorem transactionFrame : Obligations.TransactionFrame := by
  unfold Obligations.TransactionFrame
  intro i s t h
  obtain ⟨hh, hwork, hw, hround, hbuf, hbufcnt, hlen, hbase, hreset⟩ := exec_sameEngine h
  refine ⟨hh, hwork, hw, hround, hbuf, hbufcnt, hlen, hbase, hreset, exec_data h, exec_results h,
    fun hupdate hwrCmd hinit hfinalize => exec_sequencer h ?notCommand⟩
  case notCommand =>
    cases hheld : heldInstr i with
    | false => exact .inl rfl
    | true =>
      refine .inr (Bool.of_not_eq_false fun hwrite => ?_)
      obtain rfl | ⟨n, rfl⟩ | rfl | ⟨v, rfl⟩ := command_cases hheld hwrite
      · exact hinit rfl
      · exact hupdate n rfl
      · exact hfinalize rfl
      · exact hwrCmd v rfl

/-! ### Acceptance (R203) -/

/-- An acceptance shows BUSY in STATUS, and nothing else. -/
theorem statusWord_accept {s : State} (hb : s.busy = false) (p : Pending) :
    (s.accept p).statusWord = s.statusWord ||| 0x00000004 := by
  have hbit : flagBit true 2 = flagBit s.busy 2 ||| 0x00000004 := by rw [hb]; rfl
  simp only [State.statusWord, accept_closed, accept_dvalid, busy_accept, accept_errState, accept_errLength, accept_errCmd,
    hbit]
  ac_rfl

/-- Settles O34: only a command accepted makes an idle engine busy. -/
theorem acceptanceChangesOnlySequencer : Obligations.AcceptanceChangesOnlySequencer := by
  unfold Obligations.AcceptanceChangesOnlySequencer
  intro i s t hb h ht
  obtain ⟨-, hbusy, -⟩ | ⟨-, v, rfl⟩ | ⟨d, -, rfl⟩ | ⟨-, -, rfl⟩ | ⟨-, -, -, u, hissued, rfl⟩ := exec_cases h
  case inl => exact absurd (hb.symm.trans hbusy) nofun
  case inr.inl | inr.inr.inl | inr.inr.inr.inl => exact absurd (hb.symm.trans ht) nofun
  case inr.inr.inr.inr =>
    obtain ⟨e, rfl, -, -⟩ | ⟨p, rfl, -⟩ := hissued
    · rw [busy_retire, busy_raise] at ht
      exact absurd (hb.symm.trans ht) nofun
    · exact ⟨rfl, (statusWord_retire _).trans (statusWord_accept hb p)⟩

/-! ### One step -/

/-- Settles O37: a transaction has the frame above, an idle step moves only the model's counts, and reset and completion
keep ENGINE_BASE, which is 64 times a number. -/
theorem hashStateWriters : Obligations.HashStateWriters := by
  unfold Obligations.HashStateWriters
  intro s t hstep
  have haligned : s.engineBase % 64 = 0 := Nat.mul_mod_right 64 s.baseBlock
  have hframe : t.engineBase = s.engineBase ∧ (s.resetNow = false → s.completionDue = false →
      t.h = s.h ∧ t.len = s.len ∧ t.bufcnt = s.bufcnt ∧ t.buf = s.buf) := by
    obtain ⟨hr, rfl⟩ | ⟨-, hdue, rfl⟩ | ⟨-, -, -, rfl⟩ | ⟨-, -, a, rest, i, -, -, hexec⟩ := step_cases hstep
    case inl => exact ⟨rfl, fun hnot => absurd (hnot.symm.trans hr) nofun⟩
    case inr.inl =>
      exact ⟨congrArg (64 * ·) (complete_baseBlock s.tick), fun _ hnot => absurd (hnot.symm.trans hdue) nofun⟩
    case inr.inr.inl => exact ⟨rfl, fun _ _ => ⟨rfl, rfl, rfl, rfl⟩⟩
    case inr.inr.inr =>
      have hsame := exec_sameEngine hexec
      exact ⟨congrArg (64 * ·) hsame.baseBlock_eq, fun _ _ => ⟨hsame.h_eq, hsame.len_eq, hsame.bufcnt_eq, hsame.buf_eq⟩⟩
  obtain ⟨hbase, hkeep⟩ := hframe
  exact ⟨hbase, hbase ▸ haligned, hkeep⟩

end Sys2Proof.Machine
end

section
/-! The invariants (10_state.md R37; 41_block_buffer.md R125; 45_host_commands.md R208): the reset state meets them and every
step keeps them. -/

namespace Sys2Proof.Machine

/-! ### The reset state -/

theorem reset_inv : State.reset.Inv := ⟨nofun, trivial, fun _ => rfl⟩

/-- A reset engine has absorbed the empty message (R125). -/
theorem represents_nil {s : State} (hlen : s.len = 0) (hcnt : s.bufcnt = 0) (hh : s.h = h0Rom) : s.Represents [] := by
  rw [represents_iff]
  exact ⟨by rw [hlen]; rfl, holds_nil hcnt hh⟩

/-- Settles O38: the reset engine is idle and Open, and has absorbed no byte. -/
theorem resetMeetsInvariants : Obligations.ResetMeetsInvariants := by
  unfold Obligations.ResetMeetsInvariants
  exact ⟨reset_inv, fun _ => ⟨[], represents_nil rfl rfl rfl⟩⟩

/-! ### Completions -/

/-- A byte absorbed moves BUFCNT on by one, around the block's end (R121). -/
theorem toNat_absorb_bufcnt (s : State) (x : Byte) : (s.absorb x).bufcnt.toNat = (s.bufcnt.toNat + 1) % 64 := by
  by_cases h : s.bufcnt = 63
  · rw [absorb_full x h, h]
    rfl
  · rw [absorb_short x h]
    exact BitVec.toNat_add s.bufcnt 1

theorem toNat_absorbAll_bufcnt (s : State) (bytes : List Byte) :
    (s.absorbAll bytes).bufcnt.toNat = (s.bufcnt.toNat + bytes.length) % 64 := by
  induction bytes generalizing s with
  | nil => exact (Nat.mod_eq_of_lt s.bufcnt.isLt).symm
  | cons x xs ih =>
    rw [absorbAll_cons, ih, toNat_absorb_bufcnt, List.length_cons, Nat.mod_add_mod, Nat.add_assoc, Nat.add_comm 1]

/-- An idle engine has no pending command to be legal. -/
theorem State.PendingLegal.of_idle {s : State} (h : s.phase = .idle) : s.PendingLegal := by
  rw [State.PendingLegal, h]
  trivial

/-- What a pending UPDATE may be (R205, R206, R208). -/
theorem State.PendingLegal.update {s : State} {bytes : List Byte} (h : s.PendingLegal)
    (hp : s.phase = .busy (.update bytes)) : s.closed = false ∧ s.len.toNat + bytes.length ≤ maxLen := by
  rw [State.PendingLegal, hp] at h
  obtain ⟨hopen, -, -, hroom⟩ := h
  exact ⟨hopen, hroom⟩

/-- FINALIZE can be pending only while Open (R210). -/
theorem State.PendingLegal.finalize {s : State} (h : s.PendingLegal) (hp : s.phase = .busy .finalize) :
    s.closed = false := by
  rwa [State.PendingLegal, hp] at h

/-- R125's count, once an UPDATE has absorbed its bytes and LEN has moved on by as many. -/
theorem completeUpdate_bufcnt_eq {s : State} {bytes : List Byte} (hcnt : s.bufcnt.toNat = s.len.toNat % 64)
    (hroom : s.len.toNat + bytes.length ≤ maxLen) :
    (s.completeUpdate bytes).bufcnt.toNat = (s.completeUpdate bytes).len.toNat % 64 := by
  rw [completeUpdate_bufcnt, toNat_absorbAll_bufcnt, toNat_completeUpdate_len hroom, hcnt, Nat.mod_add_mod]

theorem complete_keeps_inv {s : State} (h : s.Inv) : s.complete.Inv := by
  match hp : s.phase with
  | .idle => rw [complete_idle hp]; exact h
  | .busy .init =>
    rw [complete_init hp]
    exact ⟨nofun, .of_idle rfl, fun _ => rfl⟩
  | .busy (.update bytes) =>
    obtain ⟨hopen, hroom⟩ := h.pending_legal.update hp
    have hdvalid : (s.completeUpdate bytes).dvalid = true → (s.completeUpdate bytes).closed = true := by
      rw [completeUpdate_dvalid, completeUpdate_closed]
      exact h.dvalid_closed
    rw [complete_update hp]
    exact ⟨hdvalid, .of_idle rfl, fun _ => completeUpdate_bufcnt_eq (h.bufcnt_eq hopen) hroom⟩
  | .busy .finalize =>
    rw [complete_finalize hp]
    exact ⟨fun _ => rfl, .of_idle rfl, nofun⟩

theorem complete_keeps_bufferInv {s : State} (hinv : s.Inv) (h : s.BufferInv) : s.complete.BufferInv := by
  match hp : s.phase with
  | .idle => rw [complete_idle hp]; exact h
  | .busy .init =>
    rw [complete_init hp]
    exact fun _ => ⟨[], (completeInit_represents s).congr rfl rfl rfl rfl⟩
  | .busy (.update bytes) =>
    obtain ⟨hopen, hroom⟩ := hinv.pending_legal.update hp
    obtain ⟨M, hM⟩ := h hopen
    rw [complete_update hp]
    rw [hM.len_eq] at hroom
    exact fun _ => ⟨M ++ bytes, (completeUpdate_represents bytes hM hroom).congr rfl rfl rfl rfl⟩
  | .busy .finalize => rw [complete_finalize hp]; exact nofun

/-! ### Transactions -/

/-- The invariant speaks of SEQ, LEN, BUFCNT, CLOSED and DVALID alone. -/
theorem State.Inv.congr {s t : State} (h : s.Inv) (hphase : t.phase = s.phase) (hlen : t.len = s.len)
    (hcnt : t.bufcnt = s.bufcnt) (hc : t.closed = s.closed) (hd : t.dvalid = s.dvalid) : t.Inv := by
  refine ⟨?_, ?_, ?_⟩
  · rw [hd, hc]; exact h.dvalid_closed
  · have hlegal := h.pending_legal
    rw [State.PendingLegal] at hlegal ⊢
    rw [hphase, hc, hlen]
    exact hlegal
  · rw [hc, hcnt, hlen]; exact h.bufcnt_eq

theorem State.Inv.tick {s : State} (h : s.Inv) : s.tick.Inv := h.congr rfl rfl rfl rfl rfl

/-- What a command write does to an idle engine keeps the invariant: an error leaves nothing pending, and R202's checks make the
command accepted legal. -/
theorem State.Issued.keeps_inv {s u : State} (hidle : s.phase = .idle) (h : s.Inv) (hissued : s.Issued u) : u.Inv := by
  obtain ⟨e, rfl, -, -⟩ | ⟨p, rfl, hlegal⟩ := hissued
  · cases e with
    | stateError | illegalCommand => exact h.congr rfl rfl rfl rfl rfl
    | lengthOverflow => exact ⟨nofun, .of_idle hidle, nofun⟩
  · exact ⟨h.dvalid_closed, hlegal, h.bufcnt_eq⟩

theorem exec_keeps_inv {i : Instr} {s t : State} (h : s.Inv) (hexec : exec i s = .next t) : t.Inv := by
  obtain ⟨-, -, rfl⟩ | ⟨-, v, rfl⟩ | ⟨d, -, rfl⟩ | ⟨-, -, rfl⟩ | ⟨-, -, hb, u, hissued, rfl⟩ := exec_cases hexec
  case inl => exact h
  case inr.inl | inr.inr.inl | inr.inr.inr.inl => exact h.congr rfl rfl rfl rfl rfl
  case inr.inr.inr.inr => exact (hissued.keeps_inv ((busy_eq_false_iff s).1 hb) h).congr rfl rfl rfl rfl rfl

/-- No transaction by itself opens the engine. -/
theorem open_of_exec_open {i : Instr} {s t : State} (hexec : exec i s = .next t) (ht : t.closed = false) :
    s.closed = false := by
  refine Bool.eq_false_of_not_eq_true fun hc => ?_
  obtain ⟨-, hclosed, -⟩ := exec_keeps_closed hexec hc
  exact absurd (ht.symm.trans hclosed) nofun

theorem exec_keeps_bufferInv {i : Instr} {s t : State} (h : s.BufferInv) (hexec : exec i s = .next t) : t.BufferInv := by
  intro ht
  obtain ⟨M, hM⟩ := h (open_of_exec_open hexec ht)
  have hsame := exec_sameEngine hexec
  exact ⟨M, hM.congr hsame.len_eq hsame.bufcnt_eq hsame.buf_eq hsame.h_eq⟩

/-! ### Steps -/

/-- Settles O39: case by case of what a step can do. -/
theorem stepKeepsInv : Obligations.StepKeepsInv := by
  unfold Obligations.StepKeepsInv
  intro s t h hstep
  obtain ⟨-, rfl⟩ | ⟨-, -, rfl⟩ | ⟨-, -, -, rfl⟩ | ⟨-, -, a, rest, i, -, -, hexec⟩ := step_cases hstep
  case inl => exact reset_inv.congr rfl rfl rfl rfl rfl
  case inr.inl => exact complete_keeps_inv h.tick
  case inr.inr.inl => exact h.tick
  case inr.inr.inr => exact exec_keeps_inv h.tick hexec

/-- Settles O40: a reset and INIT start the empty message, UPDATE appends its bytes, FINALIZE closes the engine, and no
transaction touches what is held of the message. -/
theorem stepKeepsBufferInv : Obligations.StepKeepsBufferInv := by
  unfold Obligations.StepKeepsBufferInv
  intro s t hinv h hstep
  have htick : s.tick.BufferInv := fun hc =>
    let ⟨M, hM⟩ := h hc
    ⟨M, hM.congr rfl rfl rfl rfl⟩
  obtain ⟨-, rfl⟩ | ⟨-, -, rfl⟩ | ⟨-, -, -, rfl⟩ | ⟨-, -, a, rest, i, -, -, hexec⟩ := step_cases hstep
  case inl => exact fun _ => ⟨[], represents_nil rfl rfl rfl⟩
  case inr.inl => exact complete_keeps_bufferInv hinv.tick htick
  case inr.inr.inl => exact htick
  case inr.inr.inr => exact exec_keeps_bufferInv htick hexec

end Sys2Proof.Machine
end

section
/-! The hold and the steps of the machine (45_host_commands.md R200 to R203; 70_reset_and_hazards.md R270 to R272): which
transaction is done at once, which step comes, and that every BUSY interval ends. -/

namespace Sys2Proof.Machine

/-! ### Held or done (R201) -/

theorem finishUnlessBusy_next (s t : State) : ∃ u, finishUnlessBusy s t = .next u := by
  cases hb : s.busy with
  | true => exact ⟨s, finishUnlessBusy_busy t hb⟩
  | false => exact ⟨t, finishUnlessBusy_idle t hb⟩

/-- Every decoded transaction has a next state: none faults or is refused. -/
theorem exec_next (i : Instr) (s : State) : ∃ t, exec i s = .next t := by
  cases i with
  | init | update _ | finalize | rdDigest _ | wrCmd _ => exact finishUnlessBusy_next s _
  | rdCmd | rdData | rdStatus | rdRsvd0C | rdRsvd1X _ | wrData _ | wrStatus _ | wrRsvd0C _ | wrRsvd1X _ _
  | wrDigest _ _ => exact ⟨_, rfl⟩

/-- A transaction that is not held is done: the next one stands at the port. -/
theorem exec_done_queue {i : Instr} {s t : State} (hi : heldInstr i = false ∨ s.busy = false) (h : exec i s = .next t) :
    t.queue = s.queue.tail := by
  obtain ⟨hheld, hb, -⟩ | ⟨-, v, rfl⟩ | ⟨d, -, rfl⟩ | ⟨-, -, rfl⟩ | ⟨-, -, -, u, hissued, rfl⟩ := exec_cases h
  case inl =>
    rw [hheld, hb] at hi
    exact absurd hi (by decide)
  case inr.inl | inr.inr.inl | inr.inr.inr.inl => rfl
  case inr.inr.inr.inr =>
    obtain ⟨-, -, hqueue, -⟩ := hissued.frame
    rw [retire_queue, hqueue]

/-- Settles O12: held is one case of a transaction, and in every other case it leaves the port. -/
theorem heldWhileBusy : Obligations.HeldWhileBusy := by
  unfold Obligations.HeldWhileBusy
  refine ⟨fun i s => exec_held, fun i s hi => ?done⟩
  case done =>
    obtain ⟨t, ht⟩ := exec_next i s
    exact ⟨t, ht, exec_done_queue hi ht⟩

/-! ### Which step comes -/

/-- Settles O9: the last branch of a step. -/
theorem stepRunsDecodedInstruction : Obligations.StepRunsDecodedInstruction := by
  unfold Obligations.StepRunsDecodedInstruction
  intro s a rest i hr hc hq hdecode
  exact step_transaction hr hc hq hdecode

/-- No reset and no completion comes before a placed transaction (log 6). -/
theorem place_resetNow (a : Access) (s : State) : (s.place a).resetNow = false := by
  change (if s.resetNow then false :: s.resetLine else s.resetLine).headD false = false
  split_ifs with hr
  · rfl
  · exact Bool.eq_false_of_not_eq_true hr

theorem place_completionDue (a : Access) (s : State) : (s.place a).completionDue = false := by
  change (s.busy && decide ((if s.completionDue then 1 else s.latencyLeft) = 0)) = false
  split_ifs with hdue
  · exact Bool.and_false s.busy
  · exact Bool.eq_false_of_not_eq_true hdue

/-- Settles O10: a table word decodes at every base to what it decodes to at base 0, and nothing comes before the placed
transaction. -/
theorem placedTableWordRuns : Obligations.PlacedTableWordRuns := by
  unfold Obligations.PlacedTableWordRuns
  intro s nbits w i h
  exact ⟨step_transaction (place_resetNow _ s) (place_completionDue _ s) rfl (decode_tableAccess h _), rfl, rfl⟩

theorem completionDue_iff (s : State) : s.completionDue = true ↔ s.busy = true ∧ s.latencyLeft = 0 := by
  rw [State.completionDue, Bool.and_eq_true, decide_eq_true_iff]

/-- Settles O11: the second branch of a step; a completion leaves the engine idle and the port alone. -/
theorem completionStepTaken : Obligations.CompletionStepTaken := by
  unfold Obligations.CompletionStepTaken
  intro s hb hl hr
  have htick : s.tick = { s with resetLine := s.resetLine.tail } := by rw [State.tick, hl]
  rw [← htick]
  exact ⟨_, step_completion hr ((completionDue_iff s).2 ⟨hb, hl⟩), rfl, complete_busy _, complete_queue _, complete_results _,
    complete_data _⟩

/-- Settles O14: an idle engine has no completion due. -/
theorem idleKeepsState : Obligations.IdleKeepsState := by
  unfold Obligations.IdleKeepsState
  intro s hb hq hr
  exact step_idle hr (completionDue_of_idle ((busy_eq_false_iff s).1 hb)) hq

/-! ### Reset (R270 to R272) -/

theorem statusWord_takeReset (s : State) : s.takeReset.statusWord = 0 := statusWord_eq_zero rfl rfl rfl rfl rfl rfl

/-- Settles O16: the reset event leaves an idle engine at R44's values, so the step after it, unless it is a reset again, runs
the transaction at the port. -/
theorem resetEventAborts : Obligations.ResetEventAborts := by
  unfold Obligations.ResetEventAborts
  intro s hr
  have hdue : s.tick.takeReset.completionDue = false := completionDue_of_idle rfl
  refine ⟨_, step_reset hr, rfl, rfl, rfl, rfl, rfl, statusWord_takeReset _, digestWord_of_open rfl, hdue, rfl, rfl, rfl,
    fun hnot a rest i hq hdecode => ⟨?_, rfl⟩⟩
  exact step_transaction hnot hdue hq hdecode

/-- Settles O17: INIT's completion and the reset event load the same values and clear the same flags, and INIT alone waits for
BUSY = 0. -/
theorem resetEqualsInitButData : Obligations.ResetEqualsInitButData := by
  unfold Obligations.ResetEqualsInitButData
  refine ⟨fun s r hb => ⟨_, exec_init ((busy_eq_false_iff s).1 hb), ?_⟩, fun s => exec_held rfl⟩
  rw [complete_init (s := (s.accept .init).retire) rfl, statusWord_takeReset]
  exact ⟨rfl, rfl, rfl, rfl, statusWord_eq_zero rfl rfl rfl rfl rfl rfl, rfl, rfl, rfl⟩

/-! ### Every BUSY interval ends (R201, R285) -/

/-- No transaction moves SEQ while BUSY = 1, nor the latency that is left. -/
theorem exec_of_busy {i : Instr} {s t : State} (hb : s.busy = true) (h : exec i s = .next t) :
    t.phase = s.phase ∧ t.latencyLeft = s.latencyLeft ∧ (t.queue = s.queue ∨ t.queue = s.queue.tail) := by
  obtain ⟨-, -, rfl⟩ | ⟨-, v, rfl⟩ | ⟨d, -, rfl⟩ | ⟨-, -, rfl⟩ | ⟨-, -, hidle, -⟩ := exec_cases h
  case inl => exact ⟨rfl, rfl, .inl rfl⟩
  case inr.inl | inr.inr.inl | inr.inr.inr.inl => exact ⟨rfl, rfl, .inr rfl⟩
  case inr.inr.inr.inr => exact absurd (hidle.symm.trans hb) nofun

/-- A busy engine with n steps of latency left, no reset ahead and no bad access at the port. -/
structure State.Waits (s : State) (n : Nat) : Prop where
  busy_eq : s.busy = true
  latencyLeft_eq : s.latencyLeft = n
  no_reset : s.NoReset
  queue_decodes : s.QueueDecodes

theorem State.Waits.tick {s : State} {n : Nat} (h : s.Waits (n + 1)) : s.tick.Waits n :=
  ⟨h.busy_eq, by rw [tick_latencyLeft, h.latencyLeft_eq]; rfl, h.no_reset.tick, h.queue_decodes⟩

/-- A transaction only passes by while a command is pending. -/
theorem State.Waits.exec {s t : State} {n : Nat} {i : Instr} (h : s.Waits n) (hexec : exec i s = .next t) : t.Waits n := by
  obtain ⟨hphase, hlatency, hqueue⟩ := exec_of_busy h.busy_eq hexec
  have hsame := exec_sameEngine hexec
  refine ⟨(busy_of_phase hphase).trans h.busy_eq, hlatency.trans h.latencyLeft_eq, ?_, ?_⟩
  · rw [State.NoReset, hsame.resetLine_eq]
    exact h.no_reset
  · rw [State.QueueDecodes, State.engineBase, hsame.baseBlock_eq]
    intro a ha
    obtain hq | hq := hqueue
    · exact h.queue_decodes a (hq ▸ ha)
    · exact h.queue_decodes a (List.mem_of_mem_tail (hq ▸ ha))

/-- While latency is left, a step takes one off, whatever the host does. -/
theorem State.Waits.step {s : State} {n : Nat} (h : s.Waits (n + 1)) : ∃ t, step s = .next t ∧ t.Waits n := by
  have hr := h.no_reset.resetNow
  have hdue : s.completionDue = false := by simp [State.completionDue, h.latencyLeft_eq]
  cases hq : s.queue with
  | nil => exact ⟨_, step_idle hr hdue hq, h.tick⟩
  | cons a rest =>
    obtain ⟨i, hi⟩ := h.queue_decodes a (hq ▸ List.mem_cons_self)
    obtain ⟨t, ht⟩ := exec_next i s.tick
    exact ⟨t, (step_transaction hr hdue hq hi).trans ht, h.tick.exec ht⟩

/-- The pending command completes once its latency has passed. -/
theorem State.Waits.ends {s : State} {n : Nat} (h : s.Waits n) : ∃ t, core.run (n + 1) s = .next t ∧ t.busy = false := by
  induction n generalizing s with
  | zero =>
    have hdue := (completionDue_iff s).2 ⟨h.busy_eq, h.latencyLeft_eq⟩
    exact ⟨_, core_run_one (step_completion h.no_reset.resetNow hdue), complete_busy _⟩
  | succ n ih =>
    obtain ⟨u, hu, hwaits⟩ := h.step
    obtain ⟨t, ht, hidle⟩ := ih hwaits
    exact ⟨t, (core_run_succ hu (n + 1)).trans ht, hidle⟩

/-- Settles O13: by induction on the latency left, one step at a time. -/
theorem busyEnds : Obligations.BusyEnds := by
  unfold Obligations.BusyEnds
  intro s hb hreset hqueue
  exact State.Waits.ends ⟨hb, rfl, hreset, hqueue⟩

end Sys2Proof.Machine
end

section
/-! What the host reads (10_state.md R33, R34, R42, R43; 20_memory.md R57; 45_host_commands.md R213 to R218): the word of each
read, which state it depends on, and the reads of `poll` (30_encoding.md R82). -/

namespace Sys2Proof.Machine

/-! ### The word a read returns -/

/-- The word that a read returns in s: DATA, STATUS and DIGESTi read as themselves, CMD and the reserved offsets as 0. -/
def State.readValue (s : State) : Instr → Word
  | .rdData => s.data
  | .rdStatus => s.statusWord
  | .rdDigest i => s.digestWord i
  | _ => 0

/-- A read that is not held returns its word, and only ends. -/
theorem exec_read {i : Instr} {s : State} (hread : readInstr i = true) (hdone : heldInstr i = false ∨ s.busy = false) :
    exec i s = .next (s.reply (s.readValue i)) := by
  cases i with
  | rdCmd | rdData | rdStatus | rdRsvd0C | rdRsvd1X _ => rfl
  | rdDigest i =>
    obtain hfree | hb := hdone
    · cases hfree
    · exact finishUnlessBusy_idle _ hb
  | init | update _ | finalize | wrCmd _ | wrData _ | wrStatus _ | wrRsvd0C _ | wrRsvd1X _ _ | wrDigest _ _ => cases hread

theorem exec_rdDigest {i : BitVec 3} {s : State} (hb : s.busy = false) :
    exec (.rdDigest i) s = .next (s.reply (s.digestWord i)) := exec_read rfl (.inr hb)

/-- What a read sees: DATA, the flags, BUSY and the digest words. -/
theorem readValue_congr {s t : State} (hdata : t.data = s.data) (hstatus : t.statusWord = s.statusWord)
    (hdigest : ∀ i, t.digestWord i = s.digestWord i) (i : Instr) : t.readValue i = s.readValue i := by
  unfold State.readValue
  split
  · exact hdata
  · exact hstatus
  · exact hdigest _
  · rfl

theorem readValue_reply (s : State) (v : Word) (i : Instr) : (s.reply v).readValue i = s.readValue i :=
  readValue_congr rfl rfl (fun _ => rfl) i

/-- Settles O21: DIGESTi is word i of the serialized H with a digest and 0 without one, and its write only ends. -/
theorem readDigest : Obligations.ReadDigest := by
  unfold Obligations.ReadDigest
  refine ⟨fun i s hb hc hd => ⟨?valid, (be32_serialize s.h i.isLt).symm⟩, fun i s hb hnone => ?none,
    fun i s => exec_held rfl, fun i v s => rfl⟩
  case valid =>
    have hword : s.digestWord i = s.h[i.toNat]'i.isLt := by rw [State.digestWord, hc, hd]; rfl
    rw [exec_rdDigest hb, hword]
    rfl
  case none =>
    have hword : s.digestWord i = 0 := if_neg (by rwa [Bool.and_eq_true])
    rw [exec_rdDigest hb, hword]
    rfl

/-- Settles O23: a read replies its word, and the reply changes nothing that a read sees. -/
theorem readsHaveNoSideEffect : Obligations.ReadsHaveNoSideEffect := by
  unfold Obligations.ReadsHaveNoSideEffect
  intro i s hread hdone
  refine ⟨s.readValue i, _, _, exec_read hread hdone, rfl, exec_read hread hdone, ?_⟩
  rw [readValue_reply, reply_results, reply_results, List.append_assoc]
  rfl

/-! ### Hidden state (R256) -/

/-- STATUS is a view of its six flags (R35). -/
theorem statusWord_congr {s t : State} (hc : t.closed = s.closed) (hd : t.dvalid = s.dvalid) (hb : t.busy = s.busy)
    (hstate : t.errState = s.errState) (hlength : t.errLength = s.errLength) (hcmd : t.errCmd = s.errCmd) :
    t.statusWord = s.statusWord := by
  simp only [State.statusWord, hc, hd, hb, hstate, hlength, hcmd]

/-- DIGESTi sees H only with a digest (R42). -/
theorem digestWord_congr_of_valid {s t : State} (hc : t.closed = s.closed) (hd : t.dvalid = s.dvalid)
    (hh : s.closed = true ∧ s.dvalid = true → t.h = s.h) (i : BitVec 3) : t.digestWord i = s.digestWord i := by
  by_cases hvalid : s.closed = true ∧ s.dvalid = true
  · exact digestWord_congr (hh hvalid) hc hd i
  · have hs : s.digestWord i = 0 := if_neg (by rwa [Bool.and_eq_true])
    have ht : t.digestWord i = 0 := if_neg (by rwa [Bool.and_eq_true, hc, hd])
    rw [hs, ht]

/-- What one transaction adds to the words read, when it is a read. -/
theorem exec_read_results {i : Instr} {s t : State} (hread : readInstr i = true) (h : exec i s = .next t) :
    t.results = if heldInstr i && s.busy then s.results else s.results ++ [s.readValue i] := by
  cases hwait : heldInstr i && s.busy with
  | true =>
    obtain ⟨hheld, hb⟩ := Bool.and_eq_true_iff.1 hwait
    rw [exec_next_unique h (exec_held hheld hb)]
    rfl
  | false =>
    rw [exec_next_unique h (exec_read hread (Bool.and_eq_false_iff.1 hwait))]
    rfl

/-- Settles O24: the two states show a read the same DATA, the same flags and the same digest words, and hold it alike. -/
theorem hiddenStateNotReadable : Obligations.HiddenStateNotReadable := by
  unfold Obligations.HiddenStateNotReadable
  intro i s t s' t' hread ht hb hh hs' ht'
  have hc : t.closed = s.closed := by rw [ht]
  have hd : t.dvalid = s.dvalid := by rw [ht]
  have hresults : t.results = s.results := by rw [ht]
  have hstatus : t.statusWord = s.statusWord :=
    statusWord_congr hc hd hb (by rw [ht]) (by rw [ht]) (by rw [ht])
  have hvalue : t.readValue i = s.readValue i :=
    readValue_congr (by rw [ht]) hstatus (digestWord_congr_of_valid hc hd hh) i
  rw [exec_read_results hread hs', exec_read_results hread ht', hb, hresults, hvalue]

/-! ### `poll` (R82) -/

/-- Bit 2 of the packed flags is the flag at position 2. -/
theorem getLsbD_or_flagBits : ∀ b0 b1 b2 b3 b4 b5 : Bool,
    (flagBit b0 0 ||| flagBit b1 1 ||| flagBit b2 2 ||| flagBit b3 3 ||| flagBit b4 4 ||| flagBit b5 5).getLsbD 2 = b2 := by
  decide

/-- The bit that `poll` tests is BUSY. -/
theorem statusShowsBusy_statusWord (s : State) : statusShowsBusy s.statusWord = s.busy := getLsbD_or_flagBits _ _ _ _ _ _

theorem busyReads_of_idle {s : State} (h : s.busy = false) : s.busyReads = 0 := by
  rw [State.busyReads, h]
  rfl

theorem busyReads_of_busy {s : State} (h : s.busy = true) : s.busyReads = s.latencyLeft := by
  rw [State.busyReads, h]
  rfl

/-- A poll's exit condition, read by read: a read that is not the last goes on only when it has seen BUSY. -/
theorem pollEnded_cons {w : Word} {words : List Word} (h : words ≠ []) :
    pollEnded (w :: words) = (statusShowsBusy w && pollEnded words) := by
  cases words with
  | nil => exact absurd rfl h
  | cons next rest => rfl

/-- No reset is ahead and rd STATUS stands at the port, before the transactions q. -/
structure State.ReadsStatus (s : State) (q : List Access) : Prop where
  no_reset : s.NoReset
  queue_eq : s.queue = encode s.engineBase .rdStatus :: q

/-- One read of a poll is done, t being the state after it and w the word returned. -/
structure State.HasRead (s t : State) (q : List Access) (w : Word) : Prop where
  reaches : s.Reaches t
  no_reset : t.NoReset
  engineBase_eq : t.engineBase = s.engineBase
  queue_eq : t.queue = q
  results_eq : t.results = s.results ++ [w]

section
variable {s : State} {q : List Access}

/-- With no completion due, the read is the step taken. -/
theorem State.ReadsStatus.step (h : s.ReadsStatus q) (hdue : s.completionDue = false) :
    s.HasRead (s.tick.reply s.statusWord) q s.statusWord := by
  have hstep : Machine.step s = exec .rdStatus s.tick :=
    step_transaction h.no_reset.resetNow hdue h.queue_eq (decode_encode rfl _)
  refine ⟨.of_step hstep, h.no_reset.tick, rfl, ?_, rfl⟩
  rw [reply_queue, tick_queue, h.queue_eq]
  rfl

theorem State.ReadsStatus.complete (h : s.ReadsStatus q) : s.tick.complete.ReadsStatus q := by
  refine ⟨?_, ?_⟩
  · rw [State.NoReset, complete_resetLine]
    exact h.no_reset.tick
  · rw [complete_queue, State.engineBase, complete_baseBlock]
    exact h.queue_eq

/-- The read of an idle engine ends a poll. -/
theorem State.ReadsStatus.idle (h : s.ReadsStatus q) (hb : s.busy = false) :
    ∃ t w, s.HasRead t q w ∧ statusShowsBusy w = false ∧ t.busy = false :=
  ⟨_, _, h.step (completionDue_of_idle ((busy_eq_false_iff s).1 hb)), (statusShowsBusy_statusWord s).trans hb, hb⟩

/-- The read that finds no latency left, the completion done before it where one is due, sees BUSY = 0. -/
theorem State.ReadsStatus.last (h : s.ReadsStatus q) (hlast : s.busyReads = 0) :
    ∃ t w, s.HasRead t q w ∧ statusShowsBusy w = false ∧ t.busy = false := by
  cases hb : s.busy with
  | false => exact h.idle hb
  | true =>
    have hdue := (completionDue_iff s).2 ⟨hb, (busyReads_of_busy hb).symm.trans hlast⟩
    have hcompletion : s.Reaches s.tick.complete := .of_step (step_completion h.no_reset.resetNow hdue)
    obtain ⟨t, w, hread, hrest⟩ := h.complete.idle (complete_busy s.tick)
    refine ⟨t, w, ⟨hcompletion.trans hread.reaches, hread.no_reset, ?_, hread.queue_eq, ?_⟩, hrest⟩
    · rw [hread.engineBase_eq, State.engineBase, complete_baseBlock]
      rfl
    · rw [hread.results_eq, complete_results]
      rfl

/-- A read before that sees BUSY = 1, and takes one step of the latency. -/
theorem State.ReadsStatus.busy {l : Nat} (h : s.ReadsStatus q) (hmore : s.busyReads = l + 1) :
    ∃ t w, s.HasRead t q w ∧ statusShowsBusy w = true ∧ t.busyReads = l := by
  have hb : s.busy = true := Bool.eq_true_of_not_eq_false fun hidle =>
    absurd (hmore.symm.trans (busyReads_of_idle hidle)) (Nat.succ_ne_zero l)
  rw [busyReads_of_busy hb] at hmore
  have hdue : s.completionDue = false := by simp [State.completionDue, hmore]
  refine ⟨_, _, h.step hdue, (statusShowsBusy_statusWord s).trans hb, ?_⟩
  rw [busyReads_of_busy (s := s.tick.reply s.statusWord) hb, reply_latencyLeft, tick_latencyLeft, hmore]
  rfl

/-- A read of a poll ends it when no latency is left, and else goes on with one step less of it. -/
theorem State.ReadsStatus.read_cases (h : s.ReadsStatus q) : ∃ t w, s.HasRead t q w ∧
    ((s.busyReads = 0 ∧ statusShowsBusy w = false ∧ t.busy = false) ∨
      (s.busyReads = t.busyReads + 1 ∧ statusShowsBusy w = true)) := by
  cases hl : s.busyReads with
  | zero =>
    obtain ⟨t, w, hread, hw, hidle⟩ := h.last hl
    exact ⟨t, w, hread, .inl ⟨rfl, hw, hidle⟩⟩
  | succ l =>
    obtain ⟨t, w, hread, hw, hnext⟩ := h.busy hl
    exact ⟨t, w, hread, .inr ⟨by rw [hnext], hw⟩⟩

end

/-- A poll of n + 1 reads, from any state: its reads meet the exit condition exactly when n of them can see BUSY. -/
theorem poll_reads (n : Nat) {s : State} {rest : List Access} (hreset : s.NoReset)
    (hq : s.queue = List.replicate (n + 1) (encode s.engineBase .rdStatus) ++ rest) :
    ∃ t words, s.Reaches t ∧ t.queue = rest ∧ t.results = s.results ++ words ∧ words.length = n + 1 ∧
      (pollEnded words = true ↔ n = s.busyReads) ∧ (pollEnded words = true → t.busy = false) := by
  induction n generalizing s with
  | zero =>
    obtain ⟨t, w, hread, hcase⟩ := State.ReadsStatus.read_cases ⟨hreset, hq⟩
    refine ⟨t, [w], hread.reaches, hread.queue_eq, hread.results_eq, rfl, ?_⟩
    obtain ⟨hlast, hw, hidle⟩ | ⟨hmore, hw⟩ := hcase
    · simp [pollEnded, hw, hlast, hidle]
    · simp [pollEnded, hw, hmore]
  | succ n ih =>
    obtain ⟨t, w, hread, hcase⟩ := State.ReadsStatus.read_cases ⟨hreset, hq⟩
    have hqueue : t.queue = List.replicate (n + 1) (encode t.engineBase .rdStatus) ++ rest := by
      rw [hread.queue_eq, hread.engineBase_eq]
      rfl
    obtain ⟨u, words, hu, hrest, hresults, hlen, hended, hidle⟩ := ih hread.no_reset hqueue
    have hcons : pollEnded (w :: words) = (statusShowsBusy w && pollEnded words) :=
      pollEnded_cons (List.ne_nil_of_length_eq_add_one hlen)
    refine ⟨u, w :: words, hread.reaches.trans hu, hrest, ?_, congrArg (· + 1) hlen, ?_⟩
    · rw [hresults, hread.results_eq, List.append_assoc]
      rfl
    · rw [hcons, Bool.and_eq_true, hended]
      obtain ⟨hlast, hw, -⟩ | ⟨hmore, hw⟩ := hcase
      · simp [hlast, hw]
      · rw [hended] at hidle
        simp only [hw, hmore, Nat.add_right_cancel_iff, true_and]
        exact hidle

/-- Settles O60: by induction on the reads, each of which takes one step of the latency until none is left. -/
theorem pollEndsWhenIdle : Obligations.PollEndsWhenIdle := by
  unfold Obligations.PollEndsWhenIdle
  intro s n rest hreset hq
  rw [programAccesses, pollProgram, List.map_replicate] at hq
  obtain ⟨t, words, ⟨k, hk⟩, hread⟩ := poll_reads n hreset hq
  exact ⟨k, t, words, hk, hread⟩

end Sys2Proof.Machine
end

section
/-! The dispatch of a write to CMD (45_host_commands.md R202): its checks in the order of the spec's code, for every word. -/

namespace Sys2Proof

/-- OP of UPDATE's words (R74). -/
theorem toNat_updateWord_mod : ∀ nbm1 : BitVec 2, (updateWord nbm1).toNat % 16 = 2 := by
  decide

theorem illegalCommand_updateWord : ∀ nbm1 : BitVec 2, illegalCommand (updateWord nbm1) = false := by
  decide

end Sys2Proof

namespace Sys2Proof.Machine

/-- Settles O31: the legal words are INIT's, UPDATE's four and FINALIZE's, each with its own checks left to take, and the two
spellings of a command run alike. -/
theorem commandWriteDispatches : Obligations.CommandWriteDispatches := by
  unfold Obligations.CommandWriteDispatches
  refine ⟨fun v s hb => ?dispatch, exec_wrCmd_eq_exec_decodeCommand, fun v s => exec_held rfl⟩
  case dispatch =>
    cases hv : illegalCommand v with
    | true => exact ⟨_, exec_wrCmd_illegal hv hb, rfl⟩
    | false =>
      obtain ⟨t, ht⟩ := exec_next (decodeCommand v) s
      refine ⟨t, (exec_wrCmd_eq_exec_decodeCommand v s).trans ht, ?_⟩
      rw [if_neg Bool.false_ne_true]
      obtain rfl | ⟨nbm1, rfl⟩ | rfl := legal_word_cases hv
      case inl =>
        rw [(decodeCommand_eq_init_iff _).2 rfl] at ht
        rw [if_pos (by decide), exec_next_unique ht (exec_init ((busy_eq_false_iff s).1 hb))]
        rfl
      case inr.inl =>
        have hn : (updateWord nbm1).toNat / 16 % 4 = nbm1.toNat := by
          rw [toNat_updateWord_div, Nat.mod_eq_of_lt nbm1.isLt]
        rw [decodeCommand_updateWord] at ht
        rw [toNat_updateWord_mod, if_neg (by decide), if_neg (by decide : ¬2 = 3), hn]
        obtain ⟨hc, rfl⟩ | ⟨hc, hl, rfl⟩ | ⟨hc, hl, rfl⟩ := exec_update_cases hb ht
        · rw [if_pos hc]
          rfl
        · rw [if_neg (by simp [hc]), if_pos (show s.len.toNat + (nbm1.toNat + 1) > 2 ^ 61 - 1 from hl)]
          rfl
        · rw [if_neg (by simp [hc]), if_neg (show ¬s.len.toNat + (nbm1.toNat + 1) > 2 ^ 61 - 1 from Nat.not_lt.2 hl)]
          rfl
      case inr.inr =>
        rw [(decodeCommand_eq_finalize_iff _).2 rfl] at ht
        rw [if_neg (by decide), if_pos (by decide : (0x00000003 : Word).toNat % 16 = 3)]
        obtain ⟨hc, rfl⟩ | ⟨hc, rfl⟩ := exec_finalize_cases hb ht
        · rw [if_pos hc]
          rfl
        · rw [if_neg (by simp [hc])]
          rfl

end Sys2Proof.Machine
end

section
/-! Absorbing and finishing a message (41_block_buffer.md R121 to R127; 44_digest.md R193). -/

namespace Sys2Proof.Machine

/-- Settles O53: the two branches of absorb. -/
theorem absorbByte : Obligations.AbsorbByte := by
  unfold Obligations.AbsorbByte
  refine fun s x => ⟨fun hshort => absorb_short x hshort, fun hfull => ?full⟩
  case full =>
    have hstored : (s.storeByte x).buf = s.buf.set 63 x := by
      simp only [storeByte_buf, hfull]
      rfl
    rw [absorb_full x hfull, hstored]
    exact ⟨rfl, rfl, rfl⟩

/-- Settles O55: one completion after the other appends its chunk. -/
theorem chunksExtendMessage : Obligations.ChunksExtendMessage := by
  unfold Obligations.ChunksExtendMessage
  intro chunks s M h hl
  exact foldl_completeUpdate_represents chunks h hl

/-- Settles O57: FINALIZE folds the blocks of pad(M) into H0 and shows H, serialized, as the digest. -/
theorem finalizeGivesSha256 : Obligations.FinalizeGivesSha256 := by
  unfold Obligations.FinalizeGivesSha256
  intro s M hM hp
  rw [complete_finalize hp]
  have hdigest : serialize s.completeFinalize.h = sha256 M := congrArg serialize hM.completeFinalize_h
  refine ⟨hdigest, fun i => ?_⟩
  rw [← hdigest]
  exact digestWord_eq_be32_serialize (s := { s.completeFinalize with phase := .idle }) rfl rfl i

end Sys2Proof.Machine
end

section
/-! No step reads an unspecified value (00_scope.md R13; 10_state.md R24 to R26, R45): two states that agree on all else run
side by side. -/

namespace Sys2Proof.Machine

/-! ### Agreement -/

/-- The values of the elements that the spec leaves unspecified, at one time or another: a..h, W, t, BUF and BUFCNT. -/
structure Unspecified where
  work : Working
  w : Schedule
  round : BitVec 6
  buf : Block
  bufcnt : BitVec 6

/-- s with other values in those elements. -/
def State.withUnspecified (s : State) (x : Unspecified) : State :=
  { s with work := x.work, w := x.w, round := x.round, buf := x.buf, bufcnt := x.bufcnt }

/-- x has the bytes that the buffer of s holds, and as many of them. -/
def State.SameBuffer (s : State) (x : Unspecified) : Prop :=
  x.bufcnt = s.bufcnt ∧ x.buf.toList.take s.bufcnt.toNat = s.buf.toList.take s.bufcnt.toNat

/-- States that agree are one state with other unspecified values, which while Open hold the same buffer. -/
theorem agree_iff (s t : State) :
    s.Agree t ↔ ∃ x, t = s.withUnspecified x ∧ (s.closed = false → s.SameBuffer x) := by
  constructor
  · rintro ⟨heq, hbuffer⟩
    exact ⟨⟨t.work, t.w, t.round, t.buf, t.bufcnt⟩, heq, hbuffer⟩
  · rintro ⟨x, rfl, hbuffer⟩
    exact ⟨rfl, hbuffer⟩

theorem State.Agree.refl (s : State) : s.Agree s := ⟨rfl, fun _ => ⟨rfl, rfl⟩⟩

/-! ### Transactions -/

section
variable (s : State) (x : Unspecified)

theorem issueUpdate_withUnspecified (nbm1 : BitVec 2) :
    (s.withUnspecified x).issueUpdate nbm1 = (s.issueUpdate nbm1).withUnspecified x := by
  unfold State.issueUpdate
  change (if s.closed then _ else if s.lengthExceeded (updateCount nbm1) then _ else _) = _
  split_ifs
  · rfl
  · rfl
  · rfl

theorem issueFinalize_withUnspecified : (s.withUnspecified x).issueFinalize = s.issueFinalize.withUnspecified x := by
  unfold State.issueFinalize
  change (if s.closed then _ else _) = _
  split_ifs
  · rfl
  · rfl

theorem issueWord_withUnspecified (v : Word) : (s.withUnspecified x).issueWord v = (s.issueWord v).withUnspecified x := by
  unfold State.issueWord
  split_ifs
  · rfl
  · rfl
  · exact issueUpdate_withUnspecified s x _
  · exact issueFinalize_withUnspecified s x

theorem finishUnlessBusy_withUnspecified {s t u : State} (x : Unspecified) (h : finishUnlessBusy s t = .next u) :
    finishUnlessBusy (s.withUnspecified x) (t.withUnspecified x) = .next (u.withUnspecified x) := by
  obtain ⟨hb, rfl⟩ | ⟨hb, rfl⟩ := finishUnlessBusy_cases h
  · exact finishUnlessBusy_busy _ hb
  · exact finishUnlessBusy_idle _ hb

end

/-- No transaction reads an unspecified element. -/
theorem exec_withUnspecified {i : Instr} {s u : State} (x : Unspecified) (h : exec i s = .next u) :
    exec i (s.withUnspecified x) = .next (u.withUnspecified x) := by
  cases i with
  | init | rdDigest _ => exact finishUnlessBusy_withUnspecified x h
  | update n =>
    have hrun := finishUnlessBusy_withUnspecified x h
    rwa [show (s.issueUpdate n).retire.withUnspecified x = ((s.issueUpdate n).withUnspecified x).retire from rfl,
      ← issueUpdate_withUnspecified] at hrun
  | finalize =>
    have hrun := finishUnlessBusy_withUnspecified x h
    rwa [show s.issueFinalize.retire.withUnspecified x = (s.issueFinalize.withUnspecified x).retire from rfl,
      ← issueFinalize_withUnspecified] at hrun
  | wrCmd v =>
    have hrun := finishUnlessBusy_withUnspecified x h
    rwa [show (s.issueWord v).retire.withUnspecified x = ((s.issueWord v).withUnspecified x).retire from rfl,
      ← issueWord_withUnspecified] at hrun
  | rdCmd | rdData | rdStatus | rdRsvd0C | rdRsvd1X _ | wrData _ | wrStatus _ | wrRsvd0C _ | wrRsvd1X _ _
  | wrDigest _ _ =>
    obtain rfl := finish_cases h
    rfl

/-- One transaction keeps agreement: it touches no unspecified element, and opens no engine. -/
theorem exec_keeps_agree {i : Instr} {s t u : State} (h : s.Agree t) (hexec : exec i s = .next u) :
    ∃ v, exec i t = .next v ∧ u.Agree v := by
  obtain ⟨x, rfl, hbuffer⟩ := (agree_iff s t).1 h
  have hsame := exec_sameEngine hexec
  refine ⟨_, exec_withUnspecified x hexec, (agree_iff u _).2 ⟨x, rfl, fun hc => ?_⟩⟩
  rw [State.SameBuffer, hsame.bufcnt_eq, hsame.buf_eq]
  exact hbuffer (open_of_exec_open hexec hc)

/-! ### Completions -/

/-- The block that a byte completes is the bytes held and that byte (R121). -/
theorem storeByte_buf_congr {s : State} {x : Unspecified} (b : Byte) (h : s.SameBuffer x) (hfull : s.bufcnt = 63) :
    ((s.withUnspecified x).storeByte b).buf = (s.storeByte b).buf := by
  obtain ⟨hcnt, htake⟩ := h
  have h63 : s.bufcnt.toNat = 63 := by rw [hfull]; rfl
  have hx63 : (s.withUnspecified x).bufcnt.toNat = 63 := by rw [← h63, ← hcnt]; rfl
  rw [h63] at htake
  rw [← Vector.toList_inj, storeByte_block b hx63, storeByte_block b h63]
  exact congrArg (· ++ [b]) htake

/-- Absorbing a byte reads the bytes held and no other. -/
theorem absorb_withUnspecified {s : State} {x : Unspecified} (b : Byte) (h : s.SameBuffer x) :
    ∃ y, (s.withUnspecified x).absorb b = (s.absorb b).withUnspecified y ∧ (s.absorb b).SameBuffer y := by
  have hcnt : (s.withUnspecified x).bufcnt = s.bufcnt := h.1
  by_cases hfull : s.bufcnt = 63
  · refine ⟨⟨(s.absorb b).work, (s.absorb b).w, (s.absorb b).round, (s.absorb b).buf, (s.absorb b).bufcnt⟩, ?_, rfl, rfl⟩
    rw [absorb_full b (hcnt.trans hfull), absorb_full b hfull, storeByte_buf_congr b h hfull]
    rfl
  · have hnext : s.bufcnt.toNat + 1 < 64 := by bv_omega
    obtain ⟨-, hcnt', hbuf⟩ := absorb_of_short b hnext
    refine ⟨⟨x.work, x.w, x.round, ((s.withUnspecified x).storeByte b).buf, x.bufcnt + 1⟩, ?_, ?_, ?_⟩
    · rw [absorb_short b (by rwa [hcnt]), absorb_short b hfull]
      rfl
    · rw [h.1, absorb_short b hfull]
    · have hx := take_storeByte_buf b (s.withUnspecified x)
      rw [hcnt] at hx
      rw [hcnt', hbuf, hx]
      exact congrArg (· ++ [b]) h.2

theorem absorbAll_withUnspecified {s : State} {x : Unspecified} (bytes : List Byte) (h : s.SameBuffer x) :
    ∃ y, (s.withUnspecified x).absorbAll bytes = (s.absorbAll bytes).withUnspecified y ∧
      (s.absorbAll bytes).SameBuffer y := by
  induction bytes generalizing s x with
  | nil => exact ⟨x, rfl, h⟩
  | cons b bs ih =>
    obtain ⟨y, hy, hsame⟩ := absorb_withUnspecified b h
    rw [absorbAll_cons, absorbAll_cons, hy]
    exact ih hsame

/-- Compressing blocks reads H alone, and leaves free values in a..h, W and t. -/
theorem compressAll_withUnspecified (bs : List Block) (s : State) (x : Unspecified) :
    ∃ y, (s.withUnspecified x).compressAll bs = (s.compressAll bs).withUnspecified y := by
  induction bs generalizing s x with
  | nil => exact ⟨x, rfl⟩
  | cons B Bs ih =>
    have hone : (s.withUnspecified x).compressBlock B = (s.compressBlock B).withUnspecified
        ⟨(s.compressBlock B).work, (s.compressBlock B).w, (s.compressBlock B).round, x.buf, x.bufcnt⟩ := by
      rw [compressBlock_eq, compressBlock_eq]
      rfl
    obtain ⟨y, hy⟩ := ih (s.compressBlock B) _
    exact ⟨y, (congrArg (State.compressAll Bs) hone).trans hy⟩

/-- The tail depends on the bytes held alone (R107). -/
theorem padTail_congr {s : State} {x : Unspecified} (h : s.SameBuffer x) (len : Nat) :
    padTail x.buf x.bufcnt.toNat len = padTail s.buf s.bufcnt.toNat len := by
  obtain ⟨hcnt, htake⟩ := h
  rw [padTail, padTail, tailBytes_eq, tailBytes_eq, hcnt, htake]

theorem completeFinalize_withUnspecified {s : State} {x : Unspecified} (h : s.SameBuffer x) :
    ∃ y, (s.withUnspecified x).completeFinalize = s.completeFinalize.withUnspecified y := by
  obtain ⟨y, hy⟩ := compressAll_withUnspecified (padTail s.buf s.bufcnt.toNat s.len.toNat) s x
  rw [← padTail_congr h s.len.toNat] at hy
  have hdone : (s.withUnspecified x).completeFinalize =
      ((s.compressAll (padTail x.buf x.bufcnt.toNat s.len.toNat)).withUnspecified y).closeFlags.forgetBuf.forgetBufcnt :=
    congrArg (fun u : State => u.closeFlags.forgetBuf.forgetBufcnt) hy
  rw [hdone, padTail_congr h]
  exact ⟨⟨y.work, y.w, y.round, s.completeFinalize.buf, s.completeFinalize.bufcnt⟩, rfl⟩

/-- A completion keeps agreement: INIT reads nothing, UPDATE and FINALIZE, pending only while Open, the bytes held. -/
theorem complete_keeps_agree {s t : State} (hinv : s.Inv) (h : s.Agree t) : s.complete.Agree t.complete := by
  obtain ⟨x, rfl, hbuffer⟩ := (agree_iff s t).1 h
  have hphase : (s.withUnspecified x).phase = s.phase := rfl
  match hp : s.phase with
  | .idle =>
    rw [complete_idle hp, complete_idle (hphase.trans hp)]
    exact h
  | .busy .init =>
    rw [complete_init hp, complete_init (hphase.trans hp)]
    exact ⟨rfl, fun _ => ⟨rfl, rfl⟩⟩
  | .busy (.update bytes) =>
    obtain ⟨hopen, -⟩ := hinv.pending_legal.update hp
    obtain ⟨y, hy, hsame⟩ := absorbAll_withUnspecified bytes (hbuffer hopen)
    rw [complete_update hp, complete_update (hphase.trans hp), agree_iff, State.completeUpdate, State.completeUpdate, hy]
    exact ⟨y, rfl, fun _ => hsame⟩
  | .busy .finalize =>
    obtain ⟨y, hy⟩ := completeFinalize_withUnspecified (hbuffer (hinv.pending_legal.finalize hp))
    rw [complete_finalize hp, complete_finalize (hphase.trans hp), agree_iff, hy]
    exact ⟨y, rfl, nofun⟩

/-! ### Steps -/

theorem State.Agree.tick {s t : State} (h : s.Agree t) : s.tick.Agree t.tick := by
  obtain ⟨x, rfl, hbuffer⟩ := (agree_iff s t).1 h
  exact (agree_iff s.tick _).2 ⟨x, rfl, hbuffer⟩

theorem State.Agree.observation_eq {s t : State} (h : s.Agree t) : t.observation = s.observation := by
  obtain ⟨x, rfl, -⟩ := (agree_iff s t).1 h
  rfl

/-- Which step comes, and which transaction stands at the port, is decided by elements that agree. -/
theorem State.Agree.port_eq {s t : State} (h : s.Agree t) : t.resetNow = s.resetNow ∧ t.completionDue = s.completionDue ∧
    t.queue = s.queue ∧ t.engineBase = s.engineBase ∧ t.tick.takeReset = s.tick.takeReset := by
  obtain ⟨x, rfl, -⟩ := (agree_iff s t).1 h
  exact ⟨rfl, rfl, rfl, rfl, rfl⟩

/-- Settles O42: the reset event leaves the same state in both, a completion and a transaction keep agreement, and a bad access
is rejected alike. -/
theorem unspecifiedNeverRead : Obligations.UnspecifiedNeverRead := by
  unfold Obligations.UnspecifiedNeverRead
  intro s t hinv h
  obtain ⟨hreset, hcompletion, hqueue, hbase, htaken⟩ := h.port_eq
  cases hr : s.resetNow with
  | true =>
    rw [step_reset hr, step_reset (hreset.trans hr), htaken]
    exact ⟨_, rfl, .refl _, rfl⟩
  | false =>
    cases hdue : s.completionDue with
    | true =>
      have hagree := complete_keeps_agree hinv.tick h.tick
      rw [step_completion hr hdue, step_completion (hreset.trans hr) (hcompletion.trans hdue)]
      exact ⟨_, rfl, hagree, hagree.observation_eq⟩
    | false =>
      cases hq : s.queue with
      | nil =>
        rw [step_idle hr hdue hq, step_idle (hreset.trans hr) (hcompletion.trans hdue) (hqueue.trans hq)]
        exact ⟨_, rfl, h.tick, h.tick.observation_eq⟩
      | cons a rest =>
        cases hdecode : decode s.engineBase a with
        | error e =>
          rw [step_rejects hr hdue hq hdecode,
            step_rejects (hreset.trans hr) (hcompletion.trans hdue) (hqueue.trans hq) (hbase ▸ hdecode)]
          cases e with
          | outsideWindow | straddling | badWidth | misaligned => rfl
        | ok i =>
          obtain ⟨u, hu⟩ := exec_next i s.tick
          obtain ⟨v, hv, hagree⟩ := exec_keeps_agree h.tick hu
          rw [step_transaction hr hdue hq hdecode, hu,
            step_transaction (hreset.trans hr) (hcompletion.trans hdue) (hqueue.trans hq) (hbase ▸ hdecode)]
          exact ⟨v, hv, hagree, hagree.observation_eq⟩

end Sys2Proof.Machine
end
